-- ==== Sys2Proof/Word.lean ====
section
/-! DEFINITION. The value types of the block (00_scope.md R8): bits and bytes. A `Time` is a natural number of ticks, `Nat`. -/

namespace Sys2Proof

/-- `Bit` is 0 or 1 (00_scope.md R8; FC: "A boolean"): `false` is 0, `true` is 1. -/
abbrev Bit := Bool

/-- `Byte` is an unsigned 8-bit value, bit 7 the most significant (00_scope.md R8). -/
abbrev Byte := BitVec 8

end Sys2Proof
end

