-- ==== Sys2Proof/Config.lean ====
section
/-! DEFINITION. What an implementation fixes: the hardwired constants (00_scope.md R6, 10_state.md R20), the open
parameters of the block, and the two free values the spec leaves to the environment. -/

namespace Sys2Proof

/-- The two endpoints on the one medium (60_exceptions.md R222; `N_ENDPOINTS` = 2). -/
inductive EndpointId where
  | A
  | B
deriving DecidableEq, Repr, Inhabited

/-- The medium variants (60_exceptions.md R216, R217). -/
inductive Medium where
  | perfect
  | lowNoise
deriving DecidableEq, Repr, Inhabited

/-- How `TX_BIT` is wired (41_serdes.md R112): `closed` sends the bit through the medium to the peer, `openPort` is
the open model of one endpoint, which outputs the bit on the port `phy_tx`. -/
inductive Wiring where
  | closed
  | openPort
deriving DecidableEq, Repr, Inhabited

/-- The OPEN parameters of 00_scope.md R6 and 92_eei_decisions.md; `none` is "unbounded". -/
structure Params where
  /-- `TICKS_PER_MS` (D6). -/
  ticksPerMs : Nat
  /-- `TIME_WIDTH`, bits of `now` and `timerStart` (D6). -/
  timeWidth : Option Nat
  /-- `SENDBUF_DEPTH` (D5). -/
  sendbufDepth : Option Nat
  /-- `PHYQ_DEPTH` (D5). -/
  phyqDepth : Option Nat
  /-- `BITBUF_DEPTH` (D5). -/
  bitbufDepth : Option Nat
  /-- `RXBUF_DEPTH` (D5). -/
  rxbufDepth : Option Nat
  /-- `APPBUF_DEPTH` (D5). -/
  appbufDepth : Option Nat
  /-- `MEDIUM` (D21). -/
  medium : Medium
  /-- Closed system or open model of one endpoint (41_serdes.md R112). -/
  wiring : Wiring
deriving DecidableEq, Repr, Inhabited

namespace Config

/-- `START`, `0x7B` (30_encoding.md R60). -/
def startTag : Byte := 0x7B#8
/-- `STOP`, `0x7D` (30_encoding.md R60). -/
def stopTag : Byte := 0x7D#8
/-- `ESC`, `0x5C` (30_encoding.md R60). -/
def escTag : Byte := 0x5C#8
/-- `ACKTAG`, `0x06` (30_encoding.md R60). -/
def ackTag : Byte := 0x06#8
/-- `MAX_FRAME_SIZE`: most application bytes per data frame (00_scope.md R6). -/
def maxFrameSize : Nat := 8
/-- `TIMEOUT_MS`: the retransmission timeout (00_scope.md R6). -/
def timeoutMs : Nat := 100
/-- `NOISE_P` in thousandths (00_scope.md R6: 0.001). Recorded; no rule reads it (60_exceptions.md R217). -/
def noisePerThousand : Nat := 1

/-- `TIMEOUT_TICKS` = `TIMEOUT_MS * TICKS_PER_MS` (00_scope.md R6). -/
def timeoutTicks (cfg : Params) : Nat := timeoutMs * cfg.ticksPerMs

/-- The defaults of 92_eei_decisions.md, with the `Perfect` medium and the closed wiring of 95_test_vectors.md's start
state (DESIGN CHOICE, log 2: unsafe, `MEDIUM` has no default in the spec). -/
def defaults : Params where
  ticksPerMs := 1
  timeWidth := none
  sendbufDepth := none
  phyqDepth := none
  bitbufDepth := none
  rxbufDepth := none
  appbufDepth := none
  medium := .perfect
  wiring := .closed

/-- FREE VALUE: which endpoint's event loop moves at the n-th unscripted step (20_memory.md R47: any enabled operation
may be the next; log 5, safe). -/
opaque schedule : Nat → EndpointId

/-- FREE VALUE: the `LowNoise` flip draw of the n-th unscripted step (60_exceptions.md R217; log 6, safe). -/
opaque flipDraw : Nat → Bit

end Config

end Sys2Proof
end

