-- ==== Sys2Proof/Syntax.lean ====
section
/-! DEFINITION. The operations of the block: one constructor per row of spec/opcode_table.json, in the table's order
(30_encoding.md R73). An operation of an endpoint carries the endpoint it acts on, as a script line does
(30_encoding.md R86). -/

namespace Sys2Proof

/-- The kinds of a transmission: `C_DATA`, `C_ACK`, `C_RETX` (10_state.md R17) and `EvFrameSent`'s `DATA`, `ACK`,
`RETX` (R24). -/
inductive FrameKind where
  | data
  | ack
  | retx
deriving DecidableEq, Repr, Inhabited

/-- One constructor per row of spec/opcode_table.json. -/
inductive Instr where
  /-- `START.hunt` (R151). -/
  | startHunt (e : EndpointId)
  /-- `GARBAGE.hunt` (R151). -/
  | garbageHunt (e : EndpointId) (b : Byte)
  /-- `START` inside a frame (R156). -/
  | start (e : EndpointId)
  /-- `STOP` inside a frame (R155). -/
  | stop (e : EndpointId)
  /-- `ESC` inside a frame (R154). -/
  | esc (e : EndpointId)
  /-- `LITERAL` (R157). -/
  | literal (e : EndpointId) (b : Byte)
  /-- `LITERAL.escaped` (R154). -/
  | literalEscaped (e : EndpointId) (b : Byte)
  /-- `ACKTAG` in a returned sequence of length 1 (R172). -/
  | ackTagByte (e : EndpointId)
  /-- `SEQ` (R64). -/
  | seqByte (s : Bit)
  /-- `PARITY` (R65). -/
  | parityByte (p : Bit)
  /-- `ESC_PAIR`, the receiver's view (R154). -/
  | escPair (e : EndpointId) (b : Byte)
  /-- `STUFF_7B`, the sender's view (R135). -/
  | stuff7B
  /-- `STUFF_7D`, the sender's view (R135). -/
  | stuff7D
  /-- `STUFF_5C`, the sender's view (R135). -/
  | stuff5C
  /-- `ACK_FRAME` at the head of the receive buffer (R63). -/
  | ackFrameCode (e : EndpointId)
  /-- `DATA_FRAME` at the head of the receive buffer (R62). -/
  | dataFrame (e : EndpointId) (d : List Byte) (s : Bit)
  /-- `EMPTY_FRAME` at the head of the receive buffer (R159). -/
  | emptyFrame (e : EndpointId)
  /-- `ONE_BYTE_FRAME` at the head of the receive buffer (R160). -/
  | oneByteFrame (e : EndpointId) (x : Byte)
  /-- `CHK_STOP` (R91). -/
  | chkStop (e : EndpointId)
  /-- `SEND_NEXT` (R92). -/
  | sendNext (e : EndpointId)
  /-- `loadTx` (R93). -/
  | loadTx (e : EndpointId) (f : List Byte) (c : FrameKind)
  /-- `TX_BIT` (R112); `flip` is the `!` of the script notation (R86): the flip draw of a `LowNoise` delivery. -/
  | txBit (e : EndpointId) (flip : Bit)
  /-- `TX_DONE` (R94). -/
  | txDone (e : EndpointId)
  /-- `DRAIN` (R114). -/
  | drain (e : EndpointId)
  /-- `PROCESS` (R96). -/
  | process (e : EndpointId)
  /-- `CHK_TIMEOUT` (R178). -/
  | chkTimeout (e : EndpointId)
  /-- `APP_PUSH` (R100). -/
  | appPush (e : EndpointId) (bs : List Byte)
  /-- `PHY_RX` (R101). -/
  | phyRx (e : EndpointId) (b : Bit)
  /-- `APP_RETRIEVE` (R102). -/
  | appRetrieve (e : EndpointId)
  /-- `STOP_REQ` (R103). -/
  | stopReq (e : EndpointId)
  /-- `TIME_ADV` (R104). -/
  | timeAdv (d : Nat)
  /-- `RESET` (R240). -/
  | reset (e : EndpointId)
  /-- `serialize` (R110). -/
  | serialize (f : List Byte)
  /-- `assemble` (R113). -/
  | assemble (l : List Bit)
  /-- `parity` (R125). -/
  | parity (l : List Byte)
  /-- `stuff` (R135). -/
  | stuff (b : Byte)
  /-- `stuffAll` (R136). -/
  | stuffAll (l : List Byte)
  /-- `createFrame` (R140). -/
  | createFrame (d : List Byte) (s : Bit)
  /-- `ackFrame` (R141). -/
  | ackFrame
  /-- `processFrame` (R150), logging to endpoint `e`'s trace. -/
  | processFrame (e : EndpointId) (rb : List Byte)
  /-- `finishFrameSend` (R171). -/
  | finishFrameSend (e : EndpointId) (f : List Byte)
  /-- `finishFrameReceive` (R172). -/
  | finishFrameReceive (e : EndpointId) (f : List Byte)
  /-- `ackBranch` (R173). -/
  | ackBranch (e : EndpointId)
  /-- `dataBranch` (R174). -/
  | dataBranch (e : EndpointId) (f : List Byte)
  /-- `deliverHalf` (R176). -/
  | deliverHalf (e : EndpointId) (f : List Byte)
  /-- `transmit` (R215): the sender, the bit, and the flip draw of a `LowNoise` delivery (R217). -/
  | transmit (sender : EndpointId) (b : Bit) (flip : Bit)
  /-- `deliver.Perfect` (R216). -/
  | deliverPerfect (b : Bit)
  /-- `deliver.LowNoise` (R217), with its free flip draw. -/
  | deliverLowNoise (b : Bit) (flip : Bit)
deriving DecidableEq, Repr

/-- Where a wire code stands: what a byte pattern means depends on the position it is read at (30_encoding.md R61,
R73: "a `byte` row applies to one byte position, the context being given by the row's `note`"). -/
inductive Position where
  /-- The deframer of `e` hunts for a start tag (R151). -/
  | hunting (e : EndpointId)
  /-- An unescaped position inside a frame (R61). -/
  | unescaped (e : EndpointId)
  /-- The position right after an unescaped `ESC` (R61). -/
  | escaped (e : EndpointId)
  /-- The single byte of a sequence that `processFrame` returned (R172). -/
  | returned (e : EndpointId)
  /-- The sequence byte as sent (R64). -/
  | seqField
  /-- The parity byte as sent (R65). -/
  | parityField
  /-- Two bytes at an unescaped position of the receiver, the first an `ESC` (R154). -/
  | receivedPair (e : EndpointId)
  /-- Two bytes the stuffer produces (R66). -/
  | stuffedPair
  /-- A whole frame at the head of `e`'s receive buffer (R62, R63, R74). -/
  | frame (e : EndpointId)
deriving DecidableEq, Repr

/-- One line of a script (30_encoding.md R86): an operation by name, or a wire code to be decoded at a position. -/
inductive Line where
  | op (i : Instr)
  | code (p : Position) (bs : List Byte)
deriving DecidableEq, Repr

end Sys2Proof
end

