-- ==== Sys2Proof/Machine/Event.lean ====
section
/-! DEFINITION. The error kinds (60_exceptions.md R200), the trace events (10_state.md R24) and the results of the
value-returning operations. -/

namespace Sys2Proof.Machine

/-- The error kinds E1 to E8 (60_exceptions.md R200). E2, E3 and E4 are raised before any endpoint runs and by no
operation of the model (R205 to R207, D35). E5 and E6 are recovered: they appear as events of the trace (R210). -/
inductive ErrorKind where
  | unregisteredSender
  | doubleRegistration
  | unknownVariant
  | ioFailure
  | damagedFrame
  | malformedFrame
  | timerNotStarted
  | bufferOverflow
deriving DecidableEq, Repr

/-- The events of an endpoint's trace (10_state.md R24). -/
inductive Event where
  /-- `EvFrameSent(kind, bytes)`: the last bit of a frame has been sent. -/
  | frameSent (kind : FrameKind) (bytes : List Byte)
  /-- `EvDiscard(bytes)`: bytes removed as garbage (`MalformedFrame`). -/
  | discard (bytes : List Byte)
  /-- `EvDamaged(extracted)`: parity mismatch (`DamagedFrame`). -/
  | damaged (extracted : List Byte)
  /-- `EvEmptyFrame`: a frame with nothing between its tags was dropped (`MalformedFrame`). -/
  | emptyFrame
  /-- `EvAckSeen`: an ACK was observed. -/
  | ackSeen
  /-- `EvDeliver(bytes)`: bytes appended to `appBuffer`. -/
  | deliver (bytes : List Byte)
  /-- `EvDuplicate(r)`: acknowledged and not delivered. -/
  | duplicate (r : Byte)
  /-- `EvRetransmit`: the timer expired. -/
  | retransmit
deriving DecidableEq, Repr

/-- The `res` of `processFrame` (44_destuff_processframe.md R150). -/
inductive ParseResult where
  | noFrame
  | frame (f : List Byte)
deriving DecidableEq, Repr

/-- What one call of `processFrame` gives: the new receive buffer, the result and the events it logs (R150). -/
structure Parsed where
  rest : List Byte
  res : ParseResult
  log : List Event
deriving DecidableEq, Repr

/-- The value an operation returns to its caller (40_event_loop.md R102 and the functions' "Result"; log 7). -/
inductive Result where
  | noValue
  | bit (b : Bit)
  | byte (b : Byte)
  | bits (l : List Bit)
  | bytes (l : List Byte)
  | parsed (rest : List Byte) (res : ParseResult)
deriving DecidableEq, Repr

end Sys2Proof.Machine
end

