-- ==== Sys2Proof/Machine/Operands.lean ====
section
/-! DEFINITION. The bit and byte primitives of 00_scope.md R8, the arithmetic of 42_parity.md R131 and the byte
classes of 30_encoding.md R61. -/

namespace Sys2Proof.Machine

/-- The other endpoint on the medium (60_exceptions.md R222). -/
def peer : EndpointId → EndpointId
  | .A => .B
  | .B => .A

/-- `flip(s) = 1 - s` (42_parity.md R131). -/
def flip (s : Bit) : Bit := !s

/-- `zext_8` of one bit: `0x00` or `0x01` (30_encoding.md R64, 42_parity.md R131). -/
def zext8 (s : Bit) : Byte := if s then 0x01#8 else 0x00#8

/-- `a xor b` on bits: addition modulo 2 (00_scope.md R8). -/
def xorBit (a b : Bit) : Bit := a != b

/-- `bitsMSB(b)`: bit 7 first (00_scope.md R8, 20_memory.md R41). -/
def bitsMSB (b : Byte) : List Bit :=
  [b.getLsbD 7, b.getLsbD 6, b.getLsbD 5, b.getLsbD 4, b.getLsbD 3, b.getLsbD 2, b.getLsbD 1, b.getLsbD 0]

/-- `byteMSB(l)`: `l[0]*128 + l[1]*64 + … + l[7]` (00_scope.md R8). -/
def byteMSB (l : List Bit) : Byte :=
  BitVec.ofNat 8 (List.zipWith (fun w b => if b then w else 0) [128, 64, 32, 16, 8, 4, 2, 1] l).sum

/-- `popcount8(b)`: the number of 1 bits (00_scope.md R8). -/
def popcount8 (b : Byte) : Nat := (bitsMSB b).count true

/-- `isTag(b)`: exactly the three framing tags; `ACKTAG` is not one (30_encoding.md R60). -/
def isTag (b : Byte) : Bool := b = Config.startTag || b = Config.stopTag || b = Config.escTag

/-- The classes of a byte at an unescaped position inside a frame (30_encoding.md R61). -/
inductive ByteClass where
  | start
  | stop
  | esc
  | literal
deriving DecidableEq, Repr

/-- The class of a byte at an unescaped position (30_encoding.md R61). -/
def classOf (b : Byte) : ByteClass :=
  if b = Config.escTag then .esc
  else if b = Config.stopTag then .stop
  else if b = Config.startTag then .start
  else .literal

/-- Whether a FIFO of capacity `depth` takes the elements `new` (20_memory.md R54: a push beyond the depth raises
`BufferOverflow`; pushing nothing pushes nothing, log 18). -/
def fits {α : Type} (depth : Option Nat) (q new : List α) : Bool :=
  match depth with
  | none => true
  | some n => new.isEmpty || decide (q.length + new.length ≤ n)

end Sys2Proof.Machine
end

