-- ==== Sys2Proof/Machine/Framing.lean ====
section
/-! DEFINITION. The pure functions of the block: the bit-serial encoder and decoder (41_serdes.md), parity
(42_parity.md), the stuffer and frame builder (43_stuff_createframe.md) and the deframer (44_destuff_processframe.md). -/

namespace Sys2Proof.Machine

/-- `serialize(f)`: the bytes' bits, most significant first (41_serdes.md R110). -/
def serialize (f : List Byte) : List Bit := f.flatMap bitsMSB

/-- `assemble(l)` of exactly 8 bits, first received first (41_serdes.md R113). -/
def assemble (l : List Bit) : Byte := byteMSB l

/-- The `while |bitBuffer| >= 8` loop of `DRAIN` (41_serdes.md R114): the bytes assembled and the bits left over. -/
def regroup : List Bit → List Byte × List Bit
  | b7 :: b6 :: b5 :: b4 :: b3 :: b2 :: b1 :: b0 :: rest =>
    (assemble [b7, b6, b5, b4, b3, b2, b1, b0] :: (regroup rest).1, (regroup rest).2)
  | short => ([], short)

/-- The parity bit of a byte list: the sum of the popcounts modulo 2 (42_parity.md R125). -/
def parityBit (l : List Byte) : Bit := decide ((l.map popcount8).sum % 2 = 1)

/-- `parity(L)`, packed as `0x00` or `0x01` (42_parity.md R125). -/
def parity (l : List Byte) : Byte := zext8 (parityBit l)

/-- `stuff(b)` (43_stuff_createframe.md R135). -/
def stuff (b : Byte) : List Byte := if isTag b then [Config.escTag, b] else [b]

/-- `stuffAll(L)` (43_stuff_createframe.md R136). -/
def stuffAll (l : List Byte) : List Byte := l.flatMap stuff

/-- The content of a data frame before its parity byte, `D' = D ++ [zext_8(s)]` (R140 step 1). -/
def content (d : List Byte) (s : Bit) : List Byte := d ++ [zext8 s]

/-- `createFrame(D, s)`, total (43_stuff_createframe.md R140, D26). -/
def createFrame (d : List Byte) (s : Bit) : List Byte :=
  [Config.startTag] ++ stuffAll (content d s) ++ stuffAll [parity (content d s)] ++ [Config.stopTag]

/-- `ackFrame` = `7B 06 7D` (43_stuff_createframe.md R141). -/
def ackFrame : List Byte := [Config.startTag, Config.ackTag, Config.stopTag]

/-- The events of a discard: nothing is logged where nothing is removed (R150 step 1). -/
def discarded (bs : List Byte) : List Event := if bs = [] then [] else [.discard bs]

/-- How step 2 of `processFrame` ends (44_destuff_processframe.md R150): the bytes ran out (R152, R153), or an
unescaped stop tag was reached (R155). -/
inductive WalkEnd where
  | ranOut (kept : List Byte) (log : List Event)
  | closed (extracted rest : List Byte) (log : List Event)
deriving DecidableEq, Repr

/-- Step 2 of `processFrame` (44_destuff_processframe.md R150, R152 to R157): `taken` are the bytes from the current
start tag up to the index `i`, the last argument the bytes from `i` on. -/
def walk (taken extracted : List Byte) (log : List Event) : List Byte → WalkEnd
  | [] => .ranOut taken log
  | b :: r =>
    match classOf b with
    | .esc =>
      match r with
      | [] => .ranOut (taken ++ [b]) log
      | c :: r' => walk (taken ++ [b, c]) (extracted ++ [c]) log r'
    | .stop => .closed extracted r log
    | .start => walk [b] [] (log ++ discarded taken) r
    | .literal => walk (taken ++ [b]) (extracted ++ [b]) log r

/-- Step 3 of `processFrame`: classify the destuffed bytes by their count and check the parity, comparing whole bytes
(44_destuff_processframe.md R158 to R162, 42_parity.md R129). `rest` is the buffer after the stop tag. -/
def classify (extracted rest : List Byte) (log : List Event) : Parsed :=
  if extracted = [] then ⟨rest, .noFrame, log ++ [.emptyFrame]⟩
  else if extracted.length = 1 then ⟨rest, .frame extracted, log⟩
  else if parity extracted.dropLast ≠ extracted.getLastD 0#8 then ⟨rest, .noFrame, log ++ [.damaged extracted]⟩
  else ⟨rest, .frame (extracted.dropLast.getLastD 0#8 :: extracted.dropLast.dropLast), log⟩

/-- `processFrame(rb)` (44_destuff_processframe.md R150; the hunt of step 1 is R151). -/
def processFrame (rb : List Byte) : Parsed :=
  let garbage := rb.takeWhile (fun b => b ≠ Config.startTag)
  match rb.dropWhile (fun b => b ≠ Config.startTag) with
  | [] => ⟨[], .noFrame, discarded garbage⟩
  | t :: r =>
    match walk [t] [] (discarded garbage) r with
    | .ranOut kept log => ⟨kept, .noFrame, log⟩
    | .closed extracted rest log => classify extracted rest log

/-- A whole frame that is exactly one data frame as a conforming sender builds it: `createFrame(D, s)` with
`1 ≤ |D| ≤ 8` (30_encoding.md R62). -/
def isDataFrame (f : List Byte) : Bool :=
  match processFrame f with
  | ⟨_, .frame (q :: d), _⟩ => decide (1 ≤ d.length ∧ d.length ≤ Config.maxFrameSize ∧ createFrame d (q = zext8 true) = f)
  | _ => false

/-- The bit the medium hands to the recipient (60_exceptions.md R216, R217): unchanged, or inverted where the draw
says so. -/
def deliverBit (m : Medium) (b draw : Bit) : Bit :=
  match m with
  | .perfect => b
  | .lowNoise => xorBit b draw

end Sys2Proof.Machine
end

