-- ==== Sys2Proof/WellFormed.lean ====
section
/-! DEFINITION. Which operands of an operation the spec admits. A script line that fails the check is ill-formed and
is refused by the step (93_implementation_defined.md U19). -/

namespace Sys2Proof

open Machine

/-- The operand checks, one line per constructor. -/
def Instr.wf : Instr → Bool
  | .startHunt _ => true
  | .garbageHunt _ b => decide (b ≠ Config.startTag)                 -- R151
  | .start _ => true
  | .stop _ => true
  | .esc _ => true
  | .literal _ b => !isTag b                                          -- R61
  | .literalEscaped _ _ => true
  | .ackTagByte _ => true
  | .seqByte _ => true
  | .parityByte _ => true
  | .escPair _ _ => true
  | .stuff7B => true
  | .stuff7D => true
  | .stuff5C => true
  | .ackFrameCode _ => true
  | .dataFrame _ d _ => decide (1 ≤ d.length ∧ d.length ≤ Config.maxFrameSize)   -- R62
  | .emptyFrame _ => true
  | .oneByteFrame _ x => decide (x ≠ Config.ackTag)                   -- R74
  | .chkStop _ => true
  | .sendNext _ => true
  | .loadTx _ f _ => decide (3 ≤ f.length)                            -- R93: "at least the 3 bytes of an ACK"
  | .txBit _ _ => true
  | .txDone _ => true
  | .drain _ => true
  | .process _ => true
  | .chkTimeout _ => true
  | .appPush _ _ => true
  | .phyRx _ _ => true
  | .appRetrieve _ => true
  | .stopReq _ => true
  | .timeAdv _ => true
  | .reset _ => true
  | .serialize _ => true
  | .assemble l => decide (l.length = 8)                              -- R113: "exactly 8 bits"
  | .parity _ => true
  | .stuff _ => true
  | .stuffAll _ => true
  | .createFrame _ _ => true                                          -- R140: total
  | .ackFrame => true
  | .processFrame _ _ => true
  | .finishFrameSend _ f => isDataFrame f                             -- R171: "a data frame; never an ACK"
  | .finishFrameReceive _ f => decide (f ≠ [])                        -- R172: "the non-empty sequence"
  | .ackBranch _ => true
  | .dataBranch _ f => decide (f ≠ [])                                -- R174
  | .deliverHalf _ f => decide (f ≠ [])                               -- R176: reads `F[0]`
  | .transmit _ _ _ => true
  | .deliverPerfect _ => true
  | .deliverLowNoise _ _ => true

end Sys2Proof
end

