-- ==== Sys2Proof/Decode.lean ====
section
/-! DEFINITION. The decoder of the wire codes (30_encoding.md R60 to R74), total on any bytes at any position, and the
encoder. The `op` rows of the table have no bit encoding (30_encoding.md R73) and are never decoded. -/

namespace Sys2Proof

open Machine

/-- Why the decoder refuses a byte pattern. -/
inductive DecodeError where
  /-- The position takes another number of bytes. -/
  | wrongLength
  /-- The single byte of a returned sequence is not `ACKTAG` (R172). -/
  | notAckTag
  /-- A sender's sequence byte is neither `0x00` nor `0x01` (R64). -/
  | notSequenceByte
  /-- A sender's parity byte is neither `0x00` nor `0x01` (R65). -/
  | notParityByte
  /-- The pair does not begin with `ESC` (R154). -/
  | notEscapePair
  /-- The pair is none of the three the stuffer produces (R66). -/
  | notStuffedPair
  /-- The bytes are none of the frame formats of the table (R62, R63, R73). -/
  | notAFrame
deriving DecidableEq, Repr

/-- The wire bytes of a code, earliest first; `[]` for the `op` rows, which have no encoding (R73). -/
def encode : Instr → List Byte
  | .startHunt _ => [Config.startTag]
  | .garbageHunt _ b => [b]
  | .start _ => [Config.startTag]
  | .stop _ => [Config.stopTag]
  | .esc _ => [Config.escTag]
  | .literal _ b => [b]
  | .literalEscaped _ b => [b]
  | .ackTagByte _ => [Config.ackTag]
  | .seqByte s => [zext8 s]
  | .parityByte p => [zext8 p]
  | .escPair _ b => [Config.escTag, b]
  | .stuff7B => [Config.escTag, Config.startTag]
  | .stuff7D => [Config.escTag, Config.stopTag]
  | .stuff5C => [Config.escTag, Config.escTag]
  | .ackFrameCode _ => [Config.startTag, Config.ackTag, Config.stopTag]
  | .dataFrame _ d s => createFrame d s
  | .emptyFrame _ => [Config.startTag, Config.stopTag]
  | .oneByteFrame _ x => [Config.startTag] ++ stuff x ++ [Config.stopTag]
  | .chkStop _ | .sendNext _ | .loadTx _ _ _ | .txBit _ _ | .txDone _ | .drain _ | .process _ | .chkTimeout _ => []
  | .appPush _ _ | .phyRx _ _ | .appRetrieve _ | .stopReq _ | .timeAdv _ | .reset _ => []
  | .serialize _ | .assemble _ | .parity _ | .stuff _ | .stuffAll _ | .createFrame _ _ | .ackFrame => []
  | .processFrame _ _ | .finishFrameSend _ _ | .finishFrameReceive _ _ | .ackBranch _ | .dataBranch _ _ => []
  | .deliverHalf _ _ | .transmit _ _ _ | .deliverPerfect _ | .deliverLowNoise _ _ => []

/-- The position a code is read at; `none` for the `op` rows (R73). -/
def positionOf : Instr → Option Position
  | .startHunt e | .garbageHunt e _ => some (.hunting e)
  | .start e | .stop e | .esc e | .literal e _ => some (.unescaped e)
  | .literalEscaped e _ => some (.escaped e)
  | .ackTagByte e => some (.returned e)
  | .seqByte _ => some .seqField
  | .parityByte _ => some .parityField
  | .escPair e _ => some (.receivedPair e)
  | .stuff7B | .stuff7D | .stuff5C => some .stuffedPair
  | .ackFrameCode e | .dataFrame e _ _ | .emptyFrame e | .oneByteFrame e _ => some (.frame e)
  | .chkStop _ | .sendNext _ | .loadTx _ _ _ | .txBit _ _ | .txDone _ | .drain _ | .process _ | .chkTimeout _ => none
  | .appPush _ _ | .phyRx _ _ | .appRetrieve _ | .stopReq _ | .timeAdv _ | .reset _ => none
  | .serialize _ | .assemble _ | .parity _ | .stuff _ | .stuffAll _ | .createFrame _ _ | .ackFrame => none
  | .processFrame _ _ | .finishFrameSend _ _ | .finishFrameReceive _ _ | .ackBranch _ | .dataBranch _ _ => none
  | .deliverHalf _ _ | .transmit _ _ _ | .deliverPerfect _ | .deliverLowNoise _ _ => none

/-- A byte read while hunting (R151). -/
def decodeHunting (e : EndpointId) (b : Byte) : Instr :=
  if b = Config.startTag then .startHunt e else .garbageHunt e b

/-- A byte at an unescaped position inside a frame (30_encoding.md R61). -/
def decodeUnescaped (e : EndpointId) (b : Byte) : Instr :=
  match classOf b with
  | .start => .start e
  | .stop => .stop e
  | .esc => .esc e
  | .literal => .literal e b

/-- A byte that must be 0 or 1 (R64, R65). -/
def decodeBitByte (b : Byte) : Option Bit :=
  if b = zext8 false then some false else if b = zext8 true then some true else none

/-- The frame a byte pattern could be, from what the deframer returns on it (30_encoding.md R70). -/
def frameCandidate (e : EndpointId) (bs : List Byte) : Instr :=
  match (processFrame bs).res with
  | .noFrame => .emptyFrame e
  | .frame [] => .emptyFrame e
  | .frame [x] => if x = Config.ackTag then .ackFrameCode e else .oneByteFrame e x
  | .frame (q :: d) => .dataFrame e d (q = zext8 true)

/-- A whole frame: accepted only if the encoder writes exactly these bytes (R62, R63, R74). -/
def decodeFrame (e : EndpointId) (bs : List Byte) : Except DecodeError Instr :=
  if (frameCandidate e bs).wf = true ∧ encode (frameCandidate e bs) = bs then .ok (frameCandidate e bs)
  else .error .notAFrame

/-- The three pairs the stuffer produces (30_encoding.md R66). -/
def decodeStuffedPair (a b : Byte) : Except DecodeError Instr :=
  if a = Config.escTag then
    match classOf b with
    | .start => .ok .stuff7B
    | .stop => .ok .stuff7D
    | .esc => .ok .stuff5C
    | .literal => .error .notStuffedPair
  else .error .notStuffedPair

/-- The decoder: what the bytes `bs` mean at position `p`. -/
def decode (p : Position) (bs : List Byte) : Except DecodeError Instr :=
  match p, bs with
  | .hunting e, [b] => .ok (decodeHunting e b)
  | .unescaped e, [b] => .ok (decodeUnescaped e b)
  | .escaped e, [b] => .ok (.literalEscaped e b)
  | .returned e, [b] => if b = Config.ackTag then .ok (.ackTagByte e) else .error .notAckTag
  | .seqField, [b] => match decodeBitByte b with | some s => .ok (.seqByte s) | none => .error .notSequenceByte
  | .parityField, [b] => match decodeBitByte b with | some q => .ok (.parityByte q) | none => .error .notParityByte
  | .receivedPair e, [a, b] => if a = Config.escTag then .ok (.escPair e b) else .error .notEscapePair
  | .stuffedPair, [a, b] => decodeStuffedPair a b
  | .frame e, bs => decodeFrame e bs
  | _, _ => .error .wrongLength

/-- The bytes of a table word of `nbits` bits: the first byte on the wire is the most significant one (30_encoding.md
R73; log 15). -/
def tableBytes (nbits w : Nat) : List Byte :=
  (List.range (nbits / 8)).map fun k => BitVec.ofNat 8 (w / 2 ^ (8 * (nbits / 8 - 1 - k)))

/-- The position a table word is read at (log 15): the table gives a word no position, so endpoint A's, and for one
byte an unescaped position unless the byte is `ACKTAG` or a sequence byte. -/
def tablePosition : List Byte → Position
  | [b] =>
    if b = Config.ackTag then .returned .A
    else if b = zext8 false ∨ b = zext8 true then .seqField
    else .unescaped .A
  | [a, b] =>
    if a = Config.escTag then (if isTag b then .stuffedPair else .receivedPair .A) else .frame .A
  | _ => .frame .A

/-- The instruction the decoder reads from a table word. -/
def decodeTableWord (nbits w : Nat) : Option Instr :=
  (decode (tablePosition (tableBytes nbits w)) (tableBytes nbits w)).toOption

end Sys2Proof
end

