-- ==== Sys2Proof/Machine/State.lean ====
section
/-! DEFINITION. The state of the closed system (60_exceptions.md R223): two endpoint records (10_state.md R10), the
clock, the medium's registration set and the parameters, plus the model's own schedule, result and scan state. -/

namespace Sys2Proof.Machine

/-- The phase register (10_state.md R18). -/
inductive Phase where
  | top
  | send
  | tx
  | drain
  | process
  | timeout
  | stopped
deriving DecidableEq, Repr

/-- `txCont`: what `TX_DONE` does when the last bit has gone (10_state.md R17). -/
inductive TxCont where
  | cNone
  | cData
  | cAck
  | cRetx
deriving DecidableEq, Repr

/-- The three states of the destuffer (44_destuff_processframe.md R166). -/
inductive ScanMode where
  | hunt
  | inFrame
  | escaped
deriving DecidableEq, Repr

/-- The local variables of a `processFrame` call in progress (44_destuff_processframe.md R150, R166; log 8): the
destuffer's state, the index of the next byte of `receiveBuffer`, and the bytes destuffed since the start tag. -/
structure Scan where
  mode : ScanMode
  pos : Nat
  extracted : List Byte
deriving DecidableEq, Repr

/-- No `processFrame` call in progress (log 8). -/
def Scan.idle : Scan := ⟨.hunt, 0, []⟩

/-- One endpoint: the record of 10_state.md R10, then the model's own two fields. -/
structure Endpoint where
  /-- R11. -/
  sendBuffer : List Byte
  /-- R12. -/
  phyBitQueue : List Bit
  /-- R13. -/
  bitBuffer : List Bit
  /-- R14. -/
  receiveBuffer : List Byte
  /-- R15. -/
  appBuffer : List Byte
  /-- R16; `none` is `null`. -/
  lastFrame : Option (List Byte)
  /-- R17. -/
  txShift : List Bit
  /-- R17. -/
  txFrame : List Byte
  /-- R17. -/
  txCont : TxCont
  /-- R17. -/
  rxFrame : List Byte
  /-- R18. -/
  phase : Phase
  /-- R21. -/
  seqSend : Bit
  /-- R22. -/
  seqRecv : Bit
  /-- R23. -/
  awaitingAck : Bool
  /-- R25; 0 is "not running". -/
  timerStart : Nat
  /-- R26. -/
  stopReq : Bool
  /-- R27. -/
  fault : Option ErrorKind
  /-- R24. -/
  trace : List Event
  /-- The model's own: the `processFrame` call in progress (log 8). -/
  scan : Scan
  /-- The model's own: the bits output on the port `phy_tx` of the open model (41_serdes.md R112, log 16). -/
  phyTx : List Bit
deriving DecidableEq, Repr

/-- The reset column of 10_state.md R10 (R32, 70_reset_and_hazards.md R240). -/
def Endpoint.reset : Endpoint where
  sendBuffer := []
  phyBitQueue := []
  bitBuffer := []
  receiveBuffer := []
  appBuffer := []
  lastFrame := none
  txShift := []
  txFrame := []
  txCont := .cNone
  rxFrame := []
  phase := .top
  seqSend := false
  seqRecv := false
  awaitingAck := false
  timerStart := 0
  stopReq := false
  fault := none
  trace := []
  scan := Scan.idle
  phyTx := []

/-- The closed system (60_exceptions.md R223), with the model's own schedule and result. -/
structure State where
  /-- Endpoint A. -/
  a : Endpoint
  /-- Endpoint B. -/
  b : Endpoint
  /-- The clock (10_state.md R28). -/
  now : Nat
  /-- The endpoints registered on the medium (10_state.md R28, 60_exceptions.md R215). -/
  registered : List EndpointId
  /-- The open parameters (00_scope.md R6), never written (log 2). -/
  cfg : Params
  /-- The model's own: what the last value-returning operation returned (log 7). -/
  result : Result
  /-- The model's own: the operations the environment has scheduled, next first (30_encoding.md R86, log 4). -/
  script : List Line
  /-- The model's own: the counter the free values are applied to (log 5, log 6). -/
  tick : Nat
deriving DecidableEq, Repr

/-- The ways a step can stop. All are the model's own; the spec's fatal errors are values of an endpoint's `fault`. -/
inductive Fault where
  /-- An operation whose enabling condition is false: "no such transition exists" (93_implementation_defined.md U14).
  Raised by every operation with an "Enabled when". Safe. -/
  | notEnabled
  /-- `TX_DONE` with `txCont = C_NONE`, which "cannot occur in `P_TX`" (40_event_loop.md R94 (b)). Safe. -/
  | noContinuation
  /-- A retransmission while `lastFrame` is `null`, excluded by 10_state.md R29 item 1 (`CHK_TIMEOUT`, `TX_DONE`). Safe. -/
  | noStoredFrame
  /-- `F[0]` of an empty sequence: `F` is "a non-empty list" (44_destuff_processframe.md R150), or `assemble` of other
  than "exactly 8 bits" (41_serdes.md R113). Raised by `deliverHalf`, `TX_DONE`, `finishFrameReceive`, `dataBranch` and
  `assemble`. Safe. -/
  | operandOutsideDomain
  /-- No script line is left and both endpoints are over (60_exceptions.md R223, 40_event_loop.md R97). Raised by the
  step. Safe. -/
  | runOver
deriving DecidableEq, Repr

/-- The reasons to give an instruction no meaning. -/
inductive Refusal where
  /-- An instruction that has no meaning yet. Raised by an arm of `exec` only. Safe. -/
  | notModelled (mnemonic : String)
  /-- A script line whose operands the spec does not admit: "the script is ill-formed"
  (93_implementation_defined.md U19). Raised by the step. Safe. -/
  | illFormedLine
  /-- A script line whose bytes are no code at their position. Raised by the step. Safe. -/
  | undecodable
  /-- A `PHY_RX` line in the closed system, where it "is not a free step" (60_exceptions.md R223), or a `transmit` line,
  the whole of which "happens inside the sender's `TX_BIT` step" (60 R215). Raised by the step. Safe. -/
  | notAFreeStep
deriving DecidableEq, Repr

/-- The outcome of one step of this machine. -/
abbrev Outcome := Host.Outcome State Fault Refusal

/-- The system after boot (70_reset_and_hazards.md R242, R243): both endpoints reset and registered, with the given
parameters and clock. -/
def State.boot (cfg : Params) (now : Nat) : State where
  a := Endpoint.reset
  b := Endpoint.reset
  now := now
  registered := [.A, .B]
  cfg := cfg
  result := .noValue
  script := []
  tick := 0

/-- The machine right after reset: the default parameters (log 2) and `now = 1` (log 3). -/
def State.reset : State := State.boot Config.defaults 1

end Sys2Proof.Machine
end

