-- ==== Sys2Proof/Machine/Flags.lean ====
section
/-! DEFINITION. The conditions that act as flags (10_state.md R19), the enabling conditions of the sequencer
(40_event_loop.md R90) and the timer comparison (45_par_fsm.md R178, 42_parity.md R131). -/

namespace Sys2Proof.Machine

/-- "timer running": not a stored bit, it is `timerStart ≠ 0` (10_state.md R19). -/
def Endpoint.timerRunning (x : Endpoint) : Bool := decide (x.timerStart ≠ 0)

/-- The enabling condition of an event-loop operation: its phase, and no fault (40_event_loop.md R90, 10_state.md R27). -/
@[simp] abbrev Endpoint.enabledIn (x : Endpoint) (p : Phase) : Prop := x.phase = p ∧ x.fault = none

/-- The event loop still runs (40_event_loop.md R90: not when `fault ≠ none` or `phase = P_STOPPED`). -/
@[simp] abbrev Endpoint.live (x : Endpoint) : Prop := x.fault = none ∧ x.phase ≠ .stopped

/-- The endpoint's run is over (40_event_loop.md R97). -/
@[simp] abbrev Endpoint.over (x : Endpoint) : Prop := x.phase = .stopped ∨ x.fault ≠ none

/-- `loadTx` is enabled only from `P_SEND`, `P_PROCESS` and `P_TIMEOUT` (40_event_loop.md R93), and not inside a
`processFrame` call (20_memory.md R46). -/
@[simp] abbrev Endpoint.canLoadTx (x : Endpoint) : Prop :=
  (x.phase = .send ∨ x.phase = .process ∨ x.phase = .timeout) ∧ x.fault = none ∧ x.scan = Scan.idle

/-- An ACK may be observed: the loop runs, no transmission is in progress (40_event_loop.md R93: "two transmissions never
overlap") and no `processFrame` call is (DESIGN CHOICE, log 10). -/
@[simp] abbrev Endpoint.canDispatch (x : Endpoint) : Prop := x.live ∧ x.phase ≠ .tx ∧ x.scan = Scan.idle

/-- The last bit of a transmission loaded with continuation `c` has gone: where `TX_DONE` calls the procedure of `c`
(40_event_loop.md R94). -/
@[simp] abbrev Endpoint.hasSent (x : Endpoint) (c : TxCont) : Prop := x.enabledIn .tx ∧ x.txShift = [] ∧ x.txCont = c

/-- `finishFrameSend(f)` is enabled where `TX_DONE` calls it, on the frame it is called with (45_par_fsm.md R171; log 10). -/
@[simp] abbrev Endpoint.canArm (x : Endpoint) (f : List Byte) : Prop :=
  (x.hasSent .cData ∧ f = x.txFrame) ∨ (x.hasSent .cRetx ∧ x.lastFrame = some f)

/-- `deliverHalf(F)` is enabled where `TX_DONE` calls it, after the last bit of the ACK, with `F = rxFrame` (45_par_fsm.md
R176, 20_memory.md R56; log 10). -/
@[simp] abbrev Endpoint.canDeliver (x : Endpoint) (f : List Byte) : Prop := x.hasSent .cAck ∧ f = x.rxFrame

/-- The stop-and-wait gate and the empty-buffer test of `SEND_NEXT` (40_event_loop.md R92, 45_par_fsm.md R177): nothing
is sent. -/
@[simp] abbrev Endpoint.sendsNothing (x : Endpoint) : Prop := x.awaitingAck = true ∨ x.sendBuffer = []

/-- `now + d`: unbounded, or modulo `2^W` with a finite `TIME_WIDTH = W` (40_event_loop.md R104, 70 R253; log 14). -/
def advance (cfg : Params) (now d : Nat) : Nat :=
  match cfg.timeWidth with
  | none => now + d
  | some w => (now + d) % 2 ^ w

/-- `now - timerStart` (45_par_fsm.md R178), modulo `2^W` with a finite `TIME_WIDTH = W` (70 R253; log 14, log 21). -/
def elapsed (cfg : Params) (now start : Nat) : Nat :=
  match cfg.timeWidth with
  | none => now - start
  | some w => (now + 2 ^ w - start) % 2 ^ w

/-- The timer has expired: strictly more than `TIMEOUT_TICKS` (45_par_fsm.md R178 (a)). -/
def expired (cfg : Params) (now start : Nat) : Bool :=
  decide (Config.timeoutTicks cfg < elapsed cfg now start)

end Sys2Proof.Machine
end

