-- ==== Sys2Proof/Machine/Ops.lean ====
section
/-! DEFINITION. The shared operations: access to the endpoint records, logging and the raising of errors
(60_exceptions.md R210), the encoder load (40_event_loop.md R93), the PAR machine's procedures (45_par_fsm.md) and the
medium's `transmit` (60_exceptions.md R215). -/

namespace Sys2Proof.Machine

/-- The record of endpoint `e`. -/
def State.ep (s : State) (e : EndpointId) : Endpoint :=
  match e with
  | .A => s.a
  | .B => s.b

/-- The state with `e`'s record replaced. -/
def State.setEp (s : State) (e : EndpointId) (x : Endpoint) : State :=
  match e with
  | .A => { s with a := x }
  | .B => { s with b := x }

/-- `log(ev)` for each event, in order (00_scope.md R8, 10_state.md R24). -/
def Endpoint.logs (x : Endpoint) (evs : List Event) : Endpoint := { x with trace := x.trace ++ evs }

/-- What an atomic operation of one endpoint does: it gives the endpoint's new record, raises a fatal error, or is stuck. -/
inductive Act where
  | done (x : Endpoint)
  | raised (k : ErrorKind)
  | stuck (f : Fault)
deriving DecidableEq, Repr

/-- RAISING A FATAL ERROR, the block's one exception entry (60_exceptions.md R210, R213): `fault <- K` at `e`, and the
step changes nothing else. There is no handler and no return; only `RESET` clears it (10_state.md R27). -/
def raiseFatal (e : EndpointId) (k : ErrorKind) (s : State) : State :=
  s.setEp e { s.ep e with fault := some k }

/-- Carry an endpoint's operation to the system. -/
def perform (e : EndpointId) (s : State) (act : Endpoint → Act) : Outcome :=
  match act (s.ep e) with
  | .done x => .next (s.setEp e x)
  | .raised k => .next (raiseFatal e k s)
  | .stuck f => .fault f

/-- Give a value to the caller (40_event_loop.md R102; log 7). -/
def returning (r : Result) (s : State) : Outcome := .next { s with result := r }

/-- The continuation a transmission of each kind is loaded with (10_state.md R17). -/
def contOf : FrameKind → TxCont
  | .data => .cData
  | .ack => .cAck
  | .retx => .cRetx

/-- `loadTx(f, c)` (40_event_loop.md R93): three writes, then `phase <- P_TX`. -/
def loadEncoder (f : List Byte) (c : FrameKind) (x : Endpoint) : Endpoint :=
  { x with txFrame := f, txShift := serialize f, txCont := contOf c, phase := .tx }

/-- `finishFrameSend(f)` at time `now` (45_par_fsm.md R171). -/
def armSender (now : Nat) (f : List Byte) (x : Endpoint) : Endpoint :=
  { x with awaitingAck := true, lastFrame := some f, timerStart := now }

/-- `ackBranch()` (45_par_fsm.md R173): unconditional. -/
def observeAck (x : Endpoint) : Endpoint :=
  { x with
    lastFrame := none
    awaitingAck := false
    seqSend := flip x.seqSend
    timerStart := 0
    trace := x.trace ++ [.ackSeen]
    phase := .timeout }

/-- `dataBranch(F)`, first half (45_par_fsm.md R174): always acknowledge. -/
def acknowledge (f : List Byte) (x : Endpoint) : Endpoint := loadEncoder ackFrame .ack { x with rxFrame := f }

/-- `finishFrameReceive(F)` (45_par_fsm.md R172). -/
def dispatch (f : List Byte) (x : Endpoint) : Endpoint :=
  if f = [Config.ackTag] then observeAck x else acknowledge f x

/-- `ackBranch` as a step of its own, where it is enabled (log 10). -/
def takeAck (x : Endpoint) : Act := if x.canDispatch then .done (observeAck x) else .stuck .notEnabled

/-- `dataBranch(F)` as a step of its own. It loads the encoder, so it is enabled where `loadTx` is (40_event_loop.md
R93). -/
def takeData (f : List Byte) (x : Endpoint) : Act :=
  if x.canLoadTx then (if f = [] then .stuck .operandOutsideDomain else .done (acknowledge f x)) else .stuck .notEnabled

/-- `deliverHalf(F)` (45_par_fsm.md R176): the whole byte `F[0]` is compared (D15). -/
def deliverSequence (cfg : Params) (f : List Byte) (x : Endpoint) : Act :=
  match f with
  | [] => .stuck .operandOutsideDomain
  | r :: data =>
    if r = zext8 x.seqRecv then
      if fits cfg.appbufDepth x.appBuffer data then
        .done { x with
          seqRecv := flip x.seqRecv
          appBuffer := x.appBuffer ++ data
          trace := x.trace ++ [.deliver data] }
      else .raised .bufferOverflow
    else .done (x.logs [.duplicate r])

/-- The end of a transmission (40_event_loop.md R94, last line), going on in `p`. -/
def clearTx (p : Phase) (x : Endpoint) : Endpoint :=
  { x with txCont := .cNone, txFrame := [], rxFrame := [], phase := p }

/-- What `PROCESS` does with the result of `processFrame` (40_event_loop.md R96). -/
def handleParsed (p : Parsed) (x : Endpoint) : Endpoint :=
  let y : Endpoint := { x with receiveBuffer := p.rest, trace := x.trace ++ p.log, scan := Scan.idle }
  match p.res with
  | .noFrame => { y with phase := .timeout }
  | .frame f => dispatch f y

/-- `push(phyBitQueue, b)` (40_event_loop.md R101, 20_memory.md R54). -/
def receiveBit (cfg : Params) (b : Bit) (x : Endpoint) : Act :=
  if fits cfg.phyqDepth x.phyBitQueue [b] then .done { x with phyBitQueue := x.phyBitQueue ++ [b] }
  else .raised .bufferOverflow

/-- `transmit(sender, b)` (60_exceptions.md R215) on behalf of a sender whose record becomes `sent` if the bit goes
out. An unregistered sender raises `UnregisteredSender` at the sender; a full queue raises `BufferOverflow` at the
recipient, which owns it (R209); either way the step changes nothing else (R210). -/
def transmitFrom (sender : EndpointId) (b draw : Bit) (sent : Endpoint) (s : State) : State :=
  if sender ∈ s.registered then
    if peer sender ∈ s.registered then
      match receiveBit s.cfg (deliverBit s.cfg.medium b draw) (s.ep (peer sender)) with
      | .done y => (s.setEp sender sent).setEp (peer sender) y
      | .raised k => raiseFatal (peer sender) k s
      | .stuck _ => s
    else s.setEp sender sent
  else raiseFatal sender .unregisteredSender s

/-- A byte `b` stands at the scan position of a `processFrame` call in progress, whose state is `m`
(44_destuff_processframe.md R150, R166; log 8). -/
@[simp] abbrev Endpoint.scanSees (x : Endpoint) (m : ScanMode) (b : Byte) : Prop :=
  x.enabledIn .process ∧ x.scan.mode = m ∧ x.receiveBuffer[x.scan.pos]? = some b

/-- The top of `processFrame`'s loop (44_destuff_processframe.md R150): where the bytes have run out, the call returns
`NoFrame`, having removed the buffer if no start tag was found (R151), and keeping it otherwise (R152, R153). -/
def continueScan (x : Endpoint) : Endpoint :=
  if x.scan.pos < x.receiveBuffer.length then x
  else
    match x.scan.mode with
    | .hunt => handleParsed ⟨[], .noFrame, discarded x.receiveBuffer⟩ x
    | .inFrame | .escaped => handleParsed ⟨x.receiveBuffer, .noFrame, []⟩ x

/-- A start tag at the scan position: discard what precedes it and restart there (44_destuff_processframe.md R151,
R156). -/
def restartScan (x : Endpoint) : Endpoint :=
  continueScan { x with
    receiveBuffer := x.receiveBuffer.drop x.scan.pos
    trace := x.trace ++ discarded (x.receiveBuffer.take x.scan.pos)
    scan := ⟨.inFrame, 1, []⟩ }

/-- One content byte taken, `n` bytes of the buffer consumed (44_destuff_processframe.md R154, R157). -/
def takeContent (n : Nat) (b : Byte) (x : Endpoint) : Endpoint :=
  continueScan { x with scan := ⟨.inFrame, x.scan.pos + n, x.scan.extracted ++ [b]⟩ }

/-- The frame `f` stands at the head of the receive buffer of an endpoint that is about to parse it (log 9). -/
@[simp] abbrev Endpoint.frameAtHead (x : Endpoint) (f : List Byte) : Prop :=
  x.enabledIn .process ∧ x.scan = Scan.idle ∧ f.isPrefixOf x.receiveBuffer = true

end Sys2Proof.Machine
end

