-- ==== Sys2Proof/Machine/ByteCodes.lean ====
section
/-! DEFINITION. The byte and byte-pair rows of the table. Those of the deframer are one pass of `processFrame`'s loop
over the byte at the scan position (44_destuff_processframe.md R150; log 8); those of the sender return the bytes the
sender puts on the wire (log 19). -/

namespace Sys2Proof.Machine

/-- `START.hunt`: the byte `0x7B` ends the hunt; everything before it is discarded (R151). -/
def execStartHunt (e : EndpointId) (s : State) : Outcome :=
  perform e s fun x =>
    if x.scanSees .hunt Config.startTag then .done (restartScan x) else .stuck .notEnabled

/-- `GARBAGE.hunt`: any byte other than `0x7B` while hunting (R151). The discard is logged once, when the hunt ends. -/
def execGarbageHunt (e : EndpointId) (b : Byte) (s : State) : Outcome :=
  perform e s fun x =>
    if x.scanSees .hunt b ∧ b ≠ Config.startTag then
      .done (continueScan { x with scan := { x.scan with pos := x.scan.pos + 1 } })
    else .stuck .notEnabled

/-- `START` at an unescaped position: the preceding extraction is corrupt; restart (R156). -/
def execStart (e : EndpointId) (s : State) : Outcome :=
  perform e s fun x =>
    if x.scanSees .inFrame Config.startTag then .done (restartScan x) else .stuck .notEnabled

/-- `STOP` at an unescaped position: remove the frame through this stop tag, classify, dispatch (R155, R158 to R162,
40_event_loop.md R96). -/
def execStop (e : EndpointId) (s : State) : Outcome :=
  perform e s fun x =>
    if x.scanSees .inFrame Config.stopTag then
      .done (handleParsed (classify x.scan.extracted (x.receiveBuffer.drop (x.scan.pos + 1)) []) x)
    else .stuck .notEnabled

/-- `ESC` at an unescaped position: the next byte is taken literally (R154); with no next byte yet the call returns
`NoFrame` (R153). -/
def execEsc (e : EndpointId) (s : State) : Outcome :=
  perform e s fun x =>
    if x.scanSees .inFrame Config.escTag then
      .done (continueScan { x with scan := { x.scan with mode := .escaped, pos := x.scan.pos + 1 } })
    else .stuck .notEnabled

/-- `LITERAL` at an unescaped position (R157). -/
def execLiteral (e : EndpointId) (b : Byte) (s : State) : Outcome :=
  perform e s fun x =>
    if x.scanSees .inFrame b ∧ isTag b = false then .done (takeContent 1 b x) else .stuck .notEnabled

/-- `LITERAL.escaped`: the byte after an `ESC`, whatever its value (R154). -/
def execLiteralEscaped (e : EndpointId) (b : Byte) (s : State) : Outcome :=
  perform e s fun x =>
    if x.scanSees .escaped b then .done (takeContent 1 b x) else .stuck .notEnabled

/-- `ESC_PAIR`: `ESC` and the byte after it, in one pass as in R150's pseudocode (R154). -/
def execEscPair (e : EndpointId) (b : Byte) (s : State) : Outcome :=
  perform e s fun x =>
    if x.scanSees .inFrame Config.escTag ∧ x.receiveBuffer[x.scan.pos + 1]? = some b then .done (takeContent 2 b x)
    else .stuck .notEnabled

/-- `ACKTAG`: the returned sequence is `[06]`; `finishFrameReceive` selects `ackBranch` (45_par_fsm.md R172, R173). -/
def execAckTagByte (e : EndpointId) (s : State) : Outcome := perform e s takeAck

/-- `SEQ`: the sequence bit packed as a whole byte, `zext_8(s)` (30_encoding.md R64). -/
def execSeqByte (q : Bit) (s : State) : Outcome := returning (.byte (zext8 q)) s

/-- `PARITY`: the parity bit packed as `0x00` or `0x01` (30_encoding.md R65). -/
def execParityByte (p : Bit) (s : State) : Outcome := returning (.byte (zext8 p)) s

/-- `STUFF_7B`: `stuff(0x7B) = 5C 7B` (43_stuff_createframe.md R135). -/
def execStuff7B (s : State) : Outcome := returning (.bytes (stuff Config.startTag)) s

/-- `STUFF_7D`: `stuff(0x7D) = 5C 7D` (43_stuff_createframe.md R135). -/
def execStuff7D (s : State) : Outcome := returning (.bytes (stuff Config.stopTag)) s

/-- `STUFF_5C`: `stuff(0x5C) = 5C 5C` (43_stuff_createframe.md R135). -/
def execStuff5C (s : State) : Outcome := returning (.bytes (stuff Config.escTag)) s

end Sys2Proof.Machine
end

