-- ==== Sys2Proof/Machine/FrameCodes.lean ====
section
/-! DEFINITION. The frame rows of the table: the frame stands at the head of the receive buffer of an endpoint in
`P_PROCESS`; its bytes are removed and what the deframer returns for it is dispatched (44_destuff_processframe.md R155,
45_par_fsm.md R172; log 9). -/

namespace Sys2Proof.Machine

/-- Remove the frame `f` from the head of the receive buffer and handle `res`, logging `evs`. -/
def consumeFrame (f : List Byte) (res : ParseResult) (evs : List Event) (x : Endpoint) : Act :=
  if x.frameAtHead f then .done (handleParsed ⟨x.receiveBuffer.drop f.length, res, evs⟩ x) else .stuck .notEnabled

/-- `ACK_FRAME`, `7B 06 7D`: parsed to `[06]` (R160), handled by `ackBranch` (R173). -/
def execAckFrameCode (e : EndpointId) (s : State) : Outcome :=
  perform e s (consumeFrame ackFrame (.frame [Config.ackTag]) [])

/-- `DATA_FRAME`: parsed to `[seq] ++ D` (R162), handled by `dataBranch` (R174). -/
def execDataFrame (e : EndpointId) (d : List Byte) (q : Bit) (s : State) : Outcome :=
  perform e s (consumeFrame (createFrame d q) (.frame (zext8 q :: d)) [])

/-- `EMPTY_FRAME`, `7B 7D`: removed, "no frame" (R159). -/
def execEmptyFrame (e : EndpointId) (s : State) : Outcome :=
  perform e s (consumeFrame [Config.startTag, Config.stopTag] .noFrame [.emptyFrame])

/-- `ONE_BYTE_FRAME`, `7B xx 7D` (`7B 5C xx 7D` for a tag value, R74): returned unchecked as `[xx]` (R160) and
dispatched (R172). -/
def execOneByteFrame (e : EndpointId) (b : Byte) (s : State) : Outcome :=
  perform e s (consumeFrame ([Config.startTag] ++ stuff b ++ [Config.stopTag]) (.frame [b]) [])

end Sys2Proof.Machine
end

