-- ==== Sys2Proof/Machine/Functions.lean ====
section
/-! DEFINITION. The pure functions of the table, run as operations: each returns its value to the caller and changes no
endpoint ("Pure function", R110, R113, R125, R135, R136, R140, R141; log 7). `processFrame` also logs (R150). -/

namespace Sys2Proof.Machine

/-- `serialize(f)` (41_serdes.md R110). -/
def execSerialize (f : List Byte) (s : State) : Outcome := returning (.bits (serialize f)) s

/-- `assemble(l)` (41_serdes.md R113): "a list of exactly 8 bits". -/
def execAssemble (l : List Bit) (s : State) : Outcome :=
  if l.length = 8 then returning (.byte (assemble l)) s else .fault .operandOutsideDomain

/-- `parity(L)` (42_parity.md R125). -/
def execParity (l : List Byte) (s : State) : Outcome := returning (.byte (parity l)) s

/-- `stuff(b)` (43_stuff_createframe.md R135). -/
def execStuff (b : Byte) (s : State) : Outcome := returning (.bytes (stuff b)) s

/-- `stuffAll(L)` (43_stuff_createframe.md R136). -/
def execStuffAll (l : List Byte) (s : State) : Outcome := returning (.bytes (stuffAll l)) s

/-- `createFrame(D, s)` (43_stuff_createframe.md R140). -/
def execCreateFrame (d : List Byte) (q : Bit) (s : State) : Outcome := returning (.bytes (createFrame d q)) s

/-- `ackFrame` (43_stuff_createframe.md R141). -/
def execAckFrame (s : State) : Outcome := returning (.bytes ackFrame) s

/-- `processFrame(rb)` (44_destuff_processframe.md R150): "the function touches no state but `receiveBuffer` (through
its result) and `trace`". The rule gives no enabling condition: run as an operation of its own it is enabled in every
state, also of a stopped or faulted endpoint and inside a parse in progress, and logs there (DESIGN CHOICE, log 10). -/
def execProcessFrame (e : EndpointId) (rb : List Byte) (s : State) : Outcome :=
  returning (.parsed (processFrame rb).rest (processFrame rb).res) (s.setEp e ((s.ep e).logs (processFrame rb).log))

end Sys2Proof.Machine
end

