-- ==== Sys2Proof/Machine/MediumOps.lean ====
section
/-! DEFINITION. The medium's operations (60_exceptions.md R215 to R217). -/

namespace Sys2Proof.Machine

/-- `transmit(sender, b)` (60_exceptions.md R215): verify the sender, deliver to every registered endpoint but it.
The step refuses its script line in the closed system, where all of it happens inside `TX_BIT` (`isFreeStep`). The
pseudocode has no enabling condition, so `exec` runs it in every state (DESIGN CHOICE, log 17). -/
def execTransmit (sender : EndpointId) (b draw : Bit) (s : State) : Outcome :=
  .next (transmitFrom sender b draw (s.ep sender) s)

/-- `deliver.Perfect` (60_exceptions.md R216): "deliver the bit unchanged". -/
def execDeliverPerfect (b : Bit) (s : State) : Outcome := returning (.bit (deliverBit .perfect b false)) s

/-- `deliver.LowNoise` (60_exceptions.md R217): `b xor flipDraw`. -/
def execDeliverLowNoise (b draw : Bit) (s : State) : Outcome := returning (.bit (deliverBit .lowNoise b draw)) s

end Sys2Proof.Machine
end

