-- ==== Sys2Proof/Machine/Par.lean ====
section
/-! DEFINITION. The procedures of the PAR machine, run as operations of the endpoint that calls them
(45_par_fsm.md R171 to R176; their enabling conditions in Flags.lean, log 10). -/

namespace Sys2Proof.Machine

/-- `finishFrameSend(f)` (45_par_fsm.md R171). -/
def execFinishFrameSend (e : EndpointId) (f : List Byte) (s : State) : Outcome :=
  perform e s fun x => if x.canArm f then .done (armSender s.now f x) else .stuck .notEnabled

/-- `finishFrameReceive(F)` of a non-empty `F` (45_par_fsm.md R172). -/
def execFinishFrameReceive (e : EndpointId) (f : List Byte) (s : State) : Outcome :=
  perform e s fun x => if f = [Config.ackTag] then takeAck x else takeData f x

/-- `ackBranch()` (45_par_fsm.md R173). -/
def execAckBranch (e : EndpointId) (s : State) : Outcome := perform e s takeAck

/-- `dataBranch(F)` of a non-empty `F` (45_par_fsm.md R174). -/
def execDataBranch (e : EndpointId) (f : List Byte) (s : State) : Outcome := perform e s (takeData f)

/-- `deliverHalf(F)` (45_par_fsm.md R176). -/
def execDeliverHalf (e : EndpointId) (f : List Byte) (s : State) : Outcome :=
  perform e s fun x => if x.canDeliver f then deliverSequence s.cfg f x else .stuck .notEnabled

end Sys2Proof.Machine
end

