-- ==== Sys2Proof/Machine/Ports.lean ====
section
/-! DEFINITION. The port and environment operations (40_event_loop.md R100 to R104, 70_reset_and_hazards.md R240). All
are enabled in every phase, stopped or faulted (40_event_loop.md R97). -/

namespace Sys2Proof.Machine

/-- `APP_PUSH(bs)` (40_event_loop.md R100). -/
def execAppPush (e : EndpointId) (bs : List Byte) (s : State) : Outcome :=
  perform e s fun x =>
    if fits s.cfg.sendbufDepth x.sendBuffer bs then .done { x with sendBuffer := x.sendBuffer ++ bs }
    else .raised .bufferOverflow

/-- `PHY_RX(b)`, "Enabled always" (40_event_loop.md R101). As a step of its own it occurs in the open model only
(60_exceptions.md R223): the step refuses its script line in the closed system (`isFreeStep`). -/
def execPhyRx (e : EndpointId) (b : Bit) (s : State) : Outcome := perform e s (receiveBit s.cfg b)

/-- `APP_RETRIEVE` (40_event_loop.md R102). -/
def execAppRetrieve (e : EndpointId) (s : State) : Outcome :=
  returning (.bytes (s.ep e).appBuffer) (s.setEp e { s.ep e with appBuffer := [] })

/-- `STOP_REQ` (40_event_loop.md R103). -/
def execStopReq (e : EndpointId) (s : State) : Outcome := perform e s fun x => .done { x with stopReq := true }

/-- `TIME_ADV(d)` (40_event_loop.md R104). -/
def execTimeAdv (d : Nat) (s : State) : Outcome := .next { s with now := advance s.cfg s.now d }

/-- `RESET` (70_reset_and_hazards.md R240): every field of the endpoint; `now` and the registration set are not touched. -/
def execReset (e : EndpointId) (s : State) : Outcome := .next (s.setEp e Endpoint.reset)

end Sys2Proof.Machine
end

