-- ==== Sys2Proof/Machine/Sequencer.lean ====
section
/-! DEFINITION. The event-loop operations (40_event_loop.md R90 to R96, 41_serdes.md R112, R114, 45_par_fsm.md R178). -/

namespace Sys2Proof.Machine

/-- `CHK_STOP` (40_event_loop.md R91). -/
def execChkStop (e : EndpointId) (s : State) : Outcome :=
  perform e s fun x =>
    if x.enabledIn .top then .done { x with phase := if x.stopReq then .stopped else .send } else .stuck .notEnabled

/-- The new data frame of `SEND_NEXT`: up to 8 bytes from the head of `sendBuffer`, with the sequence bit `seqSend`
(40_event_loop.md R92). -/
def nextDataFrame (x : Endpoint) : List Byte := createFrame (x.sendBuffer.take Config.maxFrameSize) x.seqSend

/-- `SEND_NEXT` (40_event_loop.md R92, the gate 45_par_fsm.md R177). -/
def execSendNext (e : EndpointId) (s : State) : Outcome :=
  perform e s fun x =>
    if x.enabledIn .send then
      if x.sendsNothing then .done { x with phase := .drain }
      else .done (loadEncoder (nextDataFrame x) .data { x with sendBuffer := x.sendBuffer.drop Config.maxFrameSize })
    else .stuck .notEnabled

/-- `loadTx(f, c)` (40_event_loop.md R93). -/
def execLoadTx (e : EndpointId) (f : List Byte) (c : FrameKind) (s : State) : Outcome :=
  perform e s fun x => if x.canLoadTx then .done (loadEncoder f c x) else .stuck .notEnabled

/-- `TX_BIT` (41_serdes.md R112): in the closed system through the medium to the peer, in the open model out on the
port `phy_tx`. -/
def execTxBit (e : EndpointId) (draw : Bit) (s : State) : Outcome :=
  match (s.ep e).txShift with
  | [] => .fault .notEnabled
  | b :: rest =>
    if (s.ep e).enabledIn .tx then
      match s.cfg.wiring with
      | .openPort => .next (s.setEp e { s.ep e with txShift := rest, phyTx := (s.ep e).phyTx ++ [b] })
      | .closed => .next (transmitFrom e b draw { s.ep e with txShift := rest } s)
    else .fault .notEnabled

/-- The `C_ACK` case of `TX_DONE`: the delivery half, then the end of the transmission (40_event_loop.md R94). -/
def finishAck (cfg : Params) (x : Endpoint) : Act :=
  match deliverSequence cfg x.rxFrame (x.logs [.frameSent .ack x.txFrame]) with
  | .done y => .done (clearTx .timeout y)
  | .raised k => .raised k
  | .stuck f => .stuck f

/-- `TX_DONE` (40_event_loop.md R94). -/
def execTxDone (e : EndpointId) (s : State) : Outcome :=
  perform e s fun x =>
    if x.enabledIn .tx ∧ x.txShift = [] then
      match x.txCont with
      | .cData => .done (clearTx .drain (armSender s.now x.txFrame (x.logs [.frameSent .data x.txFrame])))
      | .cAck => finishAck s.cfg x
      | .cRetx =>
        match x.lastFrame with
        | some f => .done (clearTx .top (armSender s.now f (x.logs [.frameSent .retx x.txFrame])))
        | none => .stuck .noStoredFrame
      | .cNone => .stuck .noContinuation
    else .stuck .notEnabled

/-- `DRAIN` (41_serdes.md R114). -/
def execDrain (e : EndpointId) (s : State) : Outcome :=
  perform e s fun x =>
    if x.enabledIn .drain then
      let bits := x.bitBuffer ++ x.phyBitQueue
      if fits s.cfg.bitbufDepth x.bitBuffer x.phyBitQueue ∧ fits s.cfg.rxbufDepth x.receiveBuffer (regroup bits).1 then
        .done { x with
          phyBitQueue := []
          bitBuffer := (regroup bits).2
          receiveBuffer := x.receiveBuffer ++ (regroup bits).1
          phase := .process }
      else .raised .bufferOverflow
    else .stuck .notEnabled

/-- `PROCESS` (40_event_loop.md R96): one call of `processFrame`, made only if `receiveBuffer` is not empty, and the
first half of the dispatch. -/
def execProcess (e : EndpointId) (s : State) : Outcome :=
  perform e s fun x =>
    if x.enabledIn .process then
      if x.receiveBuffer = [] then .done { x with phase := .timeout, scan := Scan.idle }
      else .done (handleParsed (processFrame x.receiveBuffer) x)
    else .stuck .notEnabled

/-- `CHK_TIMEOUT` (45_par_fsm.md R178). -/
def execChkTimeout (e : EndpointId) (s : State) : Outcome :=
  perform e s fun x =>
    if x.enabledIn .timeout then
      if x.awaitingAck = false then .done { x with phase := .top }
      else if x.timerStart = 0 then .raised .timerNotStarted
      else if expired s.cfg s.now x.timerStart then
        match x.lastFrame with
        | some f => .done (loadEncoder f .retx (x.logs [.retransmit]))
        | none => .stuck .noStoredFrame
      else .done { x with phase := .top }
    else .stuck .notEnabled

end Sys2Proof.Machine
end

