-- ==== Sys2Proof/Machine/Dispatch.lean ====
section
/-! DEFINITION. The dispatch: one arm per constructor of Instr. -/

namespace Sys2Proof.Machine

def exec (i : Instr) (s : State) : Host.Outcome State Fault Refusal :=
  match i with
  | .startHunt e => Sys2Proof.Machine.execStartHunt e s
  | .garbageHunt e b => Sys2Proof.Machine.execGarbageHunt e b s
  | .start e => Sys2Proof.Machine.execStart e s
  | .stop e => Sys2Proof.Machine.execStop e s
  | .esc e => Sys2Proof.Machine.execEsc e s
  | .literal e b => Sys2Proof.Machine.execLiteral e b s
  | .literalEscaped e b => Sys2Proof.Machine.execLiteralEscaped e b s
  | .ackTagByte e => Sys2Proof.Machine.execAckTagByte e s
  | .seqByte q => Sys2Proof.Machine.execSeqByte q s
  | .parityByte p => Sys2Proof.Machine.execParityByte p s
  | .escPair e b => Sys2Proof.Machine.execEscPair e b s
  | .stuff7B => Sys2Proof.Machine.execStuff7B s
  | .stuff7D => Sys2Proof.Machine.execStuff7D s
  | .stuff5C => Sys2Proof.Machine.execStuff5C s
  | .ackFrameCode e => Sys2Proof.Machine.execAckFrameCode e s
  | .dataFrame e d q => Sys2Proof.Machine.execDataFrame e d q s
  | .emptyFrame e => Sys2Proof.Machine.execEmptyFrame e s
  | .oneByteFrame e b => Sys2Proof.Machine.execOneByteFrame e b s
  | .chkStop e => Sys2Proof.Machine.execChkStop e s
  | .sendNext e => Sys2Proof.Machine.execSendNext e s
  | .loadTx e f c => Sys2Proof.Machine.execLoadTx e f c s
  | .txBit e draw => Sys2Proof.Machine.execTxBit e draw s
  | .txDone e => Sys2Proof.Machine.execTxDone e s
  | .drain e => Sys2Proof.Machine.execDrain e s
  | .process e => Sys2Proof.Machine.execProcess e s
  | .chkTimeout e => Sys2Proof.Machine.execChkTimeout e s
  | .appPush e bs => Sys2Proof.Machine.execAppPush e bs s
  | .phyRx e b => Sys2Proof.Machine.execPhyRx e b s
  | .appRetrieve e => Sys2Proof.Machine.execAppRetrieve e s
  | .stopReq e => Sys2Proof.Machine.execStopReq e s
  | .timeAdv d => Sys2Proof.Machine.execTimeAdv d s
  | .reset e => Sys2Proof.Machine.execReset e s
  | .serialize f => Sys2Proof.Machine.execSerialize f s
  | .assemble l => Sys2Proof.Machine.execAssemble l s
  | .parity l => Sys2Proof.Machine.execParity l s
  | .stuff b => Sys2Proof.Machine.execStuff b s
  | .stuffAll l => Sys2Proof.Machine.execStuffAll l s
  | .createFrame d q => Sys2Proof.Machine.execCreateFrame d q s
  | .ackFrame => Sys2Proof.Machine.execAckFrame s
  | .processFrame e rb => Sys2Proof.Machine.execProcessFrame e rb s
  | .finishFrameSend e f => Sys2Proof.Machine.execFinishFrameSend e f s
  | .finishFrameReceive e f => Sys2Proof.Machine.execFinishFrameReceive e f s
  | .ackBranch e => Sys2Proof.Machine.execAckBranch e s
  | .dataBranch e f => Sys2Proof.Machine.execDataBranch e f s
  | .deliverHalf e f => Sys2Proof.Machine.execDeliverHalf e f s
  | .transmit e b draw => Sys2Proof.Machine.execTransmit e b draw s
  | .deliverPerfect b => Sys2Proof.Machine.execDeliverPerfect b s
  | .deliverLowNoise b draw => Sys2Proof.Machine.execDeliverLowNoise b draw s

end Sys2Proof.Machine
end

