-- ==== Sys2Proof/Machine/Schedule.lean ====
section
/-! DEFINITION. What the next operation is: the script's next line (30_encoding.md R86), or, with no line left, an
operation of an event loop (40_event_loop.md R90, 20_memory.md R47). -/

namespace Sys2Proof.Machine

/-- What a fetch gives: an operation and the state to run it in, or a stop. -/
inductive Fetched where
  | run (i : Instr) (s : State)
  | fault (f : Fault)
  | refused (r : Refusal)
deriving DecidableEq, Repr

/-- The one event-loop operation enabled in endpoint `e`'s phase (40_event_loop.md R90's table), `draw` being the flip
draw a `TX_BIT` delivery would use; `none` where the endpoint is over (R97). -/
def loopOperation (e : EndpointId) (draw : Bit) (x : Endpoint) : Option Instr :=
  if x.fault = none then
    match x.phase with
    | .top => some (.chkStop e)
    | .send => some (.sendNext e)
    | .tx => if x.txShift = [] then some (.txDone e) else some (.txBit e draw)
    | .drain => some (.drain e)
    | .process => some (.process e)
    | .timeout => some (.chkTimeout e)
    | .stopped => none
  else none

/-- The operation of an unscripted step: the event loop of the endpoint that the free value picks, or of the other one
where that endpoint is over (20_memory.md R47; log 5). -/
def unscripted (s : State) : Option Instr :=
  let e := Config.schedule s.tick
  match loopOperation e (Config.flipDraw s.tick) (s.ep e) with
  | some i => some i
  | none => loopOperation (peer e) (Config.flipDraw s.tick) (s.ep (peer e))

/-- Whether an operation may be a step of its own. Those that put a bit into a queue from outside a `TX_BIT` may only in
the open model of one endpoint: "`PHY_RX` is not a free step in the closed system" (60_exceptions.md R223, R224;
30_encoding.md R86 for `RX_BYTES`), and "the whole of `transmit` happens inside the sender's `TX_BIT` step" (60 R215;
20_memory.md R49 item 4, R57). For the helpers that R223 does not list: log 10 and log 17. -/
def isFreeStep (cfg : Params) (i : Instr) : Bool :=
  match i with
  | .phyRx _ _ | .transmit _ _ _ => decide (cfg.wiring = .openPort)
  | _ => true

/-- The operation of a script line, where its operands are admitted and it may be a step (30_encoding.md R86). -/
def admitLine (i : Instr) (s : State) : Fetched :=
  if i.wf = false then .refused .illFormedLine
  else if isFreeStep s.cfg i = false then .refused .notAFreeStep
  else .run i s

/-- The fetch of one script line. -/
def fetchLine (l : Line) (s : State) : Fetched :=
  match l with
  | .op i => admitLine i s
  | .code p bs =>
    match decode p bs with
    | .ok i => admitLine i s
    | .error _ => .refused .undecodable

/-- The fetch: the script's next line, which leaves the script; with no line left, an unscripted operation, which
advances the free values' counter; with both endpoints over, the run is over (60_exceptions.md R223). -/
def fetch (s : State) : Fetched :=
  match s.script with
  | l :: rest => fetchLine l { s with script := rest }
  | [] =>
    match unscripted s with
    | some i => .run i { s with tick := s.tick + 1 }
    | none => .fault .runOver

/-- Endpoint `x` in `P_PROCESS` with the given receive buffer and scan, able to run. -/
def scanningAt (buf : List Byte) (sc : Scan) (x : Endpoint) : Endpoint :=
  { x with phase := .process, fault := none, receiveBuffer := buf, scan := sc }

/-- Put the bytes of a code where its position says they stand. -/
def placeCode (p : Position) (bs : List Byte) (s : State) : State :=
  match p with
  | .hunting e => s.setEp e (scanningAt bs Scan.idle (s.ep e))
  | .unescaped e => s.setEp e (scanningAt (Config.startTag :: bs) ⟨.inFrame, 1, []⟩ (s.ep e))
  | .escaped e => s.setEp e (scanningAt (Config.startTag :: Config.escTag :: bs) ⟨.escaped, 2, []⟩ (s.ep e))
  | .receivedPair e => s.setEp e (scanningAt (Config.startTag :: bs) ⟨.inFrame, 1, []⟩ (s.ep e))
  | .frame e => s.setEp e (scanningAt bs Scan.idle (s.ep e))
  | .returned e => s.setEp e (scanningAt (s.ep e).receiveBuffer Scan.idle (s.ep e))
  | .seqField | .parityField | .stuffedPair => s

/-- The word's bytes as the next script line, standing where the position of the table word says. -/
def presentWord (s : State) (bs : List Byte) : State :=
  { placeCode (tablePosition bs) bs s with script := .code (tablePosition bs) bs :: s.script }

end Sys2Proof.Machine
end

