-- ==== Sys2Proof/Machine/Step.lean ====
section
/-! DEFINITION. One step of the system: fetch the next operation and run it. -/

namespace Sys2Proof.Machine

/-- One step (20_memory.md R47): the next script line if there is one, else an operation of an event loop. -/
def step (s : State) : Host.Outcome State Fault Refusal :=
  match fetch s with
  | .run i t => exec i t
  | .fault f => .fault f
  | .refused r => .refused r

/-- `s` with a table word as the next script line, and endpoint A at the position the word is read at, so that the
very next step runs exactly it (log 15). -/
def State.withFetchWord (s : State) (nbits w : Nat) : State :=
  presentWord s (tableBytes nbits w)

end Sys2Proof.Machine
end

