-- ==== Sys2Proof/Safety.lean ====
section
/-! DEFINITION. What counts as a safe run, in the terms the statements use: the invariants of 10_state.md R29 and R17,
the conforming frames of 30_encoding.md R75, the byte-by-byte deframer of 44_destuff_processframe.md R166 and the
transmission of several bits (30_encoding.md R86's `TX_FRAME`). -/

namespace Sys2Proof.Machine

/-- `f` is a data frame a conforming sender builds with sequence bit `q`: `createFrame(D, q)`, `1 ≤ |D| ≤ 8`
(30_encoding.md R62, R75). -/
def IsDataFrame (q : Bit) (f : List Byte) : Prop :=
  ∃ d : List Byte, 1 ≤ d.length ∧ d.length ≤ Config.maxFrameSize ∧ f = createFrame d q

/-- FC §3 invariant 1 (10_state.md R29 item 1): `awaitingAck = false ⇔ lastFrame = null ⇔ timer not running`. -/
def Endpoint.senderConsistent (x : Endpoint) : Prop :=
  (x.awaitingAck = false ↔ x.lastFrame = none) ∧ (x.awaitingAck = false ↔ x.timerRunning = false)

/-- The encoder's registers between and during transmissions (10_state.md R17): nothing is loaded outside `P_TX`, and
in `P_TX` the shift register holds the bits of `txFrame` not yet sent. -/
def Endpoint.encoderConsistent (x : Endpoint) : Prop :=
  (x.phase ≠ .tx → x.txCont = .cNone ∧ x.txShift = [] ∧ x.txFrame = [] ∧ x.rxFrame = []) ∧
  (x.phase = .tx → x.txCont ≠ .cNone ∧ x.txShift <:+ serialize x.txFrame)

/-- What holds of one endpoint's record at clock reading `now` after any operations whatever. -/
structure Endpoint.Inv (now : Nat) (x : Endpoint) : Prop where
  /-- R29 item 1. -/
  sender : x.senderConsistent
  /-- 42_parity.md R131: `now ≥ timerStart` always. -/
  timer : x.timerStart ≤ now
  /-- R13: at most 7 bits wait for their byte. -/
  partialByte : x.bitBuffer.length ≤ 7
  /-- R17. -/
  encoder : x.encoderConsistent
  /-- 40_event_loop.md R93: a transmission is of "at least the 3 bytes of an ACK". -/
  frameSize : (x.phase = .tx → 3 ≤ x.txFrame.length) ∧ ∀ f, x.lastFrame = some f → 3 ≤ f.length
  /-- No `processFrame` call is in progress outside `P_PROCESS` (20_memory.md R46; log 8). -/
  scan : x.phase ≠ .process → x.scan = Scan.idle
  /-- 60_exceptions.md R203: `TimerNotStarted` is unreachable. -/
  noTimerFault : x.fault ≠ some .timerNotStarted
  /-- 60_exceptions.md R204: `UnregisteredSender` is unreachable. -/
  noSenderFault : x.fault ≠ some .unregisteredSender

/-- The system invariant, for unbounded time and a booted medium. -/
structure State.Inv (s : State) : Prop where
  /-- The default `TIME_WIDTH` (00_scope.md R6). -/
  unbounded : s.cfg.timeWidth = none
  /-- 10_state.md R28: `now ≥ 1` always. -/
  clock : 1 ≤ s.now
  /-- 70_reset_and_hazards.md R243: both endpoints are registered. -/
  boot : ∀ e : EndpointId, e ∈ s.registered
  endpoints : ∀ e : EndpointId, (s.ep e).Inv s.now

/-- A script line that is not a bare call of `loadTx` or `finishFrameSend`, the two helpers that write the sender's
stored frame on behalf of the operations that call them (40_event_loop.md R93, 45_par_fsm.md R171). -/
def Line.keepsSender : Line → Bool
  | .op (.loadTx _ _ _) => false
  | .op (.finishFrameSend _ _) => false
  | _ => true

/-- What the sender's stored frame and the frame under transmission are (10_state.md R16, R17, 45_par_fsm.md R179). -/
structure Endpoint.Frames (x : Endpoint) : Prop where
  /-- R16, R179: the outstanding frame is a data frame with sequence byte `seqSend`. -/
  stored : ∀ f, x.lastFrame = some f → IsDataFrame x.seqSend f
  /-- R92: a new frame under transmission, its gate open. -/
  data : x.phase = .tx → x.txCont = .cData → IsDataFrame x.seqSend x.txFrame ∧ x.awaitingAck = false
  /-- R174. -/
  ack : x.phase = .tx → x.txCont = .cAck → x.txFrame = ackFrame ∧ x.rxFrame ≠ []
  /-- R178: a retransmission sends the stored bytes. -/
  retx : x.phase = .tx → x.txCont = .cRetx → x.lastFrame = some x.txFrame

/-- The invariant of runs of the spec's own operations (60_exceptions.md R223). -/
structure State.RunInv (s : State) : Prop where
  inv : s.Inv
  lines : ∀ l ∈ s.script, Line.keepsSender l = true
  frames : ∀ e : EndpointId, (s.ep e).Frames

/-- The position of the byte that endpoint `x`'s `processFrame` call looks at next (44_destuff_processframe.md R166). -/
def scanPosition (e : EndpointId) (m : ScanMode) : Position :=
  match m with
  | .hunt => .hunting e
  | .inFrame => .unescaped e
  | .escaped => .escaped e

/-- The byte code at the scan position, as the decoder reads it there. -/
def scannedCode (e : EndpointId) (x : Endpoint) : Option Instr :=
  match x.receiveBuffer[x.scan.pos]? with
  | none => none
  | some b => (decode (scanPosition e x.scan.mode) [b]).toOption

/-- Run endpoint `e`'s deframer byte by byte, fetching each byte code from its receive buffer, for at most `n` bytes
and until the call has returned (44_destuff_processframe.md R166). -/
def deframeBytes (e : EndpointId) : Nat → State → Outcome
  | 0, s => .next s
  | n + 1, s =>
    if (s.ep e).phase = .process then
      match scannedCode e (s.ep e) with
      | none => .fault .notEnabled
      | some i =>
        match exec i s with
        | .next t => deframeBytes e n t
        | .fault f => .fault f
        | .refused r => .refused r
    else .next s

/-- The operations `ops` one after the other (30_encoding.md R86). -/
def runOps : List Instr → State → Outcome
  | [], s => .next s
  | i :: rest, s =>
    match exec i s with
    | .next t => runOps rest t
    | .fault f => .fault f
    | .refused r => .refused r

/-- `TX_BIT` of endpoint `e` once for each flip draw (30_encoding.md R86, `TX_FRAME`). -/
def txBits (e : EndpointId) (draws : List Bit) : List Instr := draws.map (Instr.txBit e)

/-- The pseudo-operation `X: TX_FRAME !j !k …` (30_encoding.md R86): `TX_BIT` once per bit of `txShift`, the bits numbered
in `flips` delivered inverted, then `TX_DONE`. -/
def txFrameOps (e : EndpointId) (flips : List Nat) (x : Endpoint) : List Instr :=
  txBits e ((List.range x.txShift.length).map (fun k => decide (k ∈ flips))) ++ [.txDone e]

/-- The pseudo-operation `X: RX_BYTES` (30_encoding.md R86): a test-bench injection of whole bytes, possible as script lines
only in the open model (`isFreeStep`). -/
def rxBytes (e : EndpointId) (bs : List Byte) : List Instr := (serialize bs).map (Instr.phyRx e)

/-- Go on with `f` where `o` gave a next state. -/
def andThen (o : Outcome) (f : State → Outcome) : Outcome :=
  match o with
  | .next t => f t
  | .fault k => .fault k
  | .refused r => .refused r

/-- `X: TX_FRAME` if `phase = P_TX` (30_encoding.md R86, in `ITERATE`). -/
def sendLoaded (e : EndpointId) (s : State) : Outcome :=
  if (s.ep e).phase = .tx then runOps (txFrameOps e [] (s.ep e)) s else .next s

/-- The pseudo-operation `X: ITERATE` (30_encoding.md R86): one pass of the loop; with `stopReq` set it ends after
`CHK_STOP`. -/
def iterate (e : EndpointId) (s : State) : Outcome :=
  andThen (exec (.chkStop e) s) fun t =>
    if (t.ep e).phase = .stopped then .next t
    else
      andThen (exec (.sendNext e) t) fun t => andThen (sendLoaded e t) fun t =>
      andThen (exec (.drain e) t) fun t => andThen (exec (.process e) t) fun t =>
      andThen (sendLoaded e t) fun t => andThen (exec (.chkTimeout e) t) (sendLoaded e)

/-- The bits a medium hands over for the bits sent, one draw per bit (60_exceptions.md R215 to R217). -/
def deliveredBits (m : Medium) (sent draws : List Bit) : List Bit := List.zipWith (deliverBit m) sent draws

/-- The endpoint an operation acts on; `none` for the clock and the pure functions. -/
def actor : Instr → Option EndpointId
  | .startHunt e | .garbageHunt e _ | .start e | .stop e | .esc e | .literal e _ | .literalEscaped e _ => some e
  | .ackTagByte e | .escPair e _ | .ackFrameCode e | .dataFrame e _ _ | .emptyFrame e | .oneByteFrame e _ => some e
  | .chkStop e | .sendNext e | .loadTx e _ _ | .txBit e _ | .txDone e | .drain e | .process e | .chkTimeout e => some e
  | .appPush e _ | .phyRx e _ | .appRetrieve e | .stopReq e | .reset e | .processFrame e _ => some e
  | .finishFrameSend e _ | .finishFrameReceive e _ | .ackBranch e | .dataBranch e _ | .deliverHalf e _ => some e
  | .transmit e _ _ => some e
  | .seqByte _ | .parityByte _ | .stuff7B | .stuff7D | .stuff5C | .timeAdv _ | .serialize _ | .assemble _ => none
  | .parity _ | .stuff _ | .stuffAll _ | .createFrame _ _ | .ackFrame | .deliverPerfect _ | .deliverLowNoise _ _ => none

/-- The operations that put bits on the medium, the only ones that reach another endpoint (60_exceptions.md R222). -/
def usesMedium : Instr → Bool
  | .txBit _ _ | .transmit _ _ _ => true
  | _ => false

end Sys2Proof.Machine
end

