-- ==== Sys2Proof/Certificates/Slice0/Obligations.lean ====
section
/-! DEFINITION. The statements for the provers. -/

open Sys2Proof Sys2Proof.Machine

/-! ### Encoding -/

/-- Words written out from 30_encoding.md R60 to R63, R66 and R74 decode to the rows they stand for. That a data frame with a
wrong parity byte (last clause) is refused as a code is the decoder's own form check, the model's choice (log 20); the
deframer handles such a frame as damaged. -/
def Obligations.CodePointsDecode : Prop :=
  decode (.hunting .A) [0x7B#8] = .ok (.startHunt .A) ∧
  decode (.hunting .B) [0x5C#8] = .ok (.garbageHunt .B 0x5C#8) ∧
  decode (.unescaped .A) [0x7B#8] = .ok (.start .A) ∧
  decode (.unescaped .A) [0x7D#8] = .ok (.stop .A) ∧
  decode (.unescaped .A) [0x5C#8] = .ok (.esc .A) ∧
  decode (.unescaped .A) [0x06#8] = .ok (.literal .A 0x06#8) ∧
  decode (.escaped .A) [0x7D#8] = .ok (.literalEscaped .A 0x7D#8) ∧
  decode (.returned .B) [0x06#8] = .ok (.ackTagByte .B) ∧
  decode .stuffedPair [0x5C#8, 0x7D#8] = .ok .stuff7D ∧
  decode (.receivedPair .A) [0x5C#8, 0x41#8] = .ok (.escPair .A 0x41#8) ∧
  decode (.frame .A) [0x7B#8, 0x06#8, 0x7D#8] = .ok (.ackFrameCode .A) ∧
  decode (.frame .B) [0x7B#8, 0x69#8, 0x01#8, 0x01#8, 0x7D#8] = .ok (.dataFrame .B [0x69#8] true) ∧
  decode (.frame .B) [0x7B#8, 0x69#8, 0x01#8, 0x00#8, 0x7D#8] = .error .notAFrame

/-- The decoder reads every well-formed wire code back from the bytes the encoder writes for it, at the position the
code stands at, with every operand at every admitted value. -/
def Obligations.DecodeOfEncodeIsTheInstruction : Prop :=
  ∀ (i : Instr) (p : Position), i.wf = true → positionOf i = some p → decode p (encode i) = .ok i

/-- Whatever the decoder accepts is a well-formed code of that position, whose encoding is exactly the bytes read: no
byte pattern falls through to a neighbouring code. At a frame's position this is the model's choice: the decoder accepts
a frame in the encoder's form only (log 20), although the deframer parses others (R74). -/
def Obligations.DecodedCodeEncodesBack : Prop :=
  ∀ (p : Position) (bs : List Byte) (i : Instr),
    decode p bs = .ok i → encode i = bs ∧ positionOf i = some p ∧ i.wf = true

/-! ### The step -/

/-- A step runs the script's next line: an operation as it stands, a code as the decoder reads it. Around `exec` the
step only takes the line off the script. A line of the closed system that would put a bit into a queue from outside a
`TX_BIT`, `PHY_RX` (R223: not a free step) or `transmit` (R215: inside `TX_BIT`), an operation with operands outside its domain and bytes that are no code are refused by name. (The script and the
refusals' names are the model's own, log 4, log 11, log 17.) -/
def Obligations.StepRunsTheScriptedInstruction : Prop :=
  (∀ (s : State) (i : Instr) (rest : List Line), s.script = .op i :: rest → i.wf = true →
    (s.cfg.wiring = .openPort ∨ (∀ e b, i ≠ .phyRx e b) ∧ (∀ e b draw, i ≠ .transmit e b draw)) → step s = exec i { s with script := rest }) ∧
  (∀ (s : State) (p : Position) (bs : List Byte) (i : Instr) (rest : List Line),
    s.script = .code p bs :: rest → decode p bs = .ok i → i.wf = true → step s = exec i { s with script := rest }) ∧
  (∀ (s : State) (e : EndpointId) (b : Bit) (rest : List Line), s.script = .op (.phyRx e b) :: rest →
    s.cfg.wiring = .closed → step s = .refused .notAFreeStep) ∧
  (∀ (s : State) (e : EndpointId) (b draw : Bit) (rest : List Line), s.script = .op (.transmit e b draw) :: rest →
    s.cfg.wiring = .closed → step s = .refused .notAFreeStep) ∧
  (∀ (s : State) (i : Instr) (rest : List Line), s.script = .op i :: rest → i.wf = false →
    step s = .refused .illFormedLine) ∧
  (∀ (s : State) (p : Position) (bs : List Byte) (err : DecodeError) (rest : List Line),
    s.script = .code p bs :: rest → decode p bs = .error err → step s = .refused .undecodable)

/-- With no script line left the step runs the one operation that R90's table enables in the phase of an endpoint whose
run is not over; with both over it stops by name. (The choice of the endpoint is a free value, log 5.) -/
def Obligations.UnscriptedStepRunsAnEnabledLoopOperation : Prop :=
  ∀ s : State, s.script = [] →
    ((∃ e, ¬ (s.ep e).over) →
      ∃ (e : EndpointId) (draw : Bit) (i : Instr), ¬ (s.ep e).over ∧
        ((s.ep e).phase = .top → i = .chkStop e) ∧
        ((s.ep e).phase = .send → i = .sendNext e) ∧
        ((s.ep e).phase = .tx → (s.ep e).txShift ≠ [] → i = .txBit e draw) ∧
        ((s.ep e).phase = .tx → (s.ep e).txShift = [] → i = .txDone e) ∧
        ((s.ep e).phase = .drain → i = .drain e) ∧
        ((s.ep e).phase = .process → i = .process e) ∧
        ((s.ep e).phase = .timeout → i = .chkTimeout e) ∧
        step s = exec i { s with tick := s.tick + 1 }) ∧
    ((∀ e, (s.ep e).over) → step s = .fault .runOver)

/-! ### Reset and the invariants -/

/-- `RESET` gives every field of the endpoint its value in R10's table, and leaves the clock, the registration set and
the other endpoint alone. -/
def Obligations.ResetGivesTheResetColumn : Prop :=
  ∀ (s : State) (e : EndpointId), ∃ t : State,
    exec (.reset e) s = .next t ∧ t = s.setEp e (t.ep e) ∧
    (t.ep e).sendBuffer = [] ∧ (t.ep e).phyBitQueue = [] ∧ (t.ep e).bitBuffer = [] ∧ (t.ep e).receiveBuffer = [] ∧
    (t.ep e).appBuffer = [] ∧ (t.ep e).lastFrame = none ∧ (t.ep e).txShift = [] ∧ (t.ep e).txFrame = [] ∧
    (t.ep e).rxFrame = [] ∧ (t.ep e).txCont = .cNone ∧ (t.ep e).phase = .top ∧ (t.ep e).seqSend = false ∧
    (t.ep e).seqRecv = false ∧ (t.ep e).awaitingAck = false ∧ (t.ep e).timerStart = 0 ∧ (t.ep e).stopReq = false ∧
    (t.ep e).fault = none ∧ (t.ep e).trace = [] ∧
    t.ep (peer e) = s.ep (peer e) ∧ t.now = s.now ∧ t.registered = s.registered

/-- Both invariants hold after boot, for all parameters with unbounded time and every clock reading from 1 on, and so at
the model's reset state. -/
def Obligations.InvariantsHoldAfterBoot : Prop :=
  (∀ (cfg : Params) (now : Nat), cfg.timeWidth = none → 1 ≤ now → (State.boot cfg now).RunInv) ∧ State.reset.RunInv

/-- Every step whatever, scripted helper calls included, keeps the system invariant: FC §3 invariant 1 (R29 item 1),
the encoder's registers, no transmission of less than an ACK's three bytes (R93), at most seven waiting bits, and neither `TimerNotStarted` nor `UnregisteredSender` raised. -/
def Obligations.EveryStepKeepsTheInvariant : Prop :=
  ∀ s t : State, s.Inv → step s = .next t → t.Inv

/-- Every step of a run whose script calls no bare `loadTx` or `finishFrameSend` also keeps what the stored frame and
the frame under transmission are: the outstanding frame is a conforming data frame that carries `seqSend`, a
retransmission sends the stored bytes, an ACK under transmission has a non-empty frame behind it. -/
def Obligations.EveryStepKeepsTheFrameInvariant : Prop :=
  ∀ s t : State, s.RunInv → step s = .next t → t.RunInv

/-- From a state of such a run an unscripted step is never stuck while an endpoint's run is not over: the loop never
waits (R99), and none of the model's own stops is met. -/
def Obligations.TheEventLoopsNeverGetStuck : Prop :=
  ∀ s : State, s.RunInv → s.script = [] → (∃ e, ¬ (s.ep e).over) → ∃ t : State, step s = .next t

/-! ### The event-loop operations -/

/-- `CHK_STOP` in `P_TOP`: only `phase` changes. -/
def Obligations.ChkStopTestsTheStopFlag : Prop :=
  ∀ (s : State) (e : EndpointId), (s.ep e).phase = .top → (s.ep e).fault = none →
    ((s.ep e).stopReq = true → exec (.chkStop e) s = .next (s.setEp e { s.ep e with phase := .stopped })) ∧
    ((s.ep e).stopReq = false → exec (.chkStop e) s = .next (s.setEp e { s.ep e with phase := .send }))

/-- `SEND_NEXT`: with an ACK outstanding, or nothing to send, only `phase` changes (the stop-and-wait gate); else it takes
up to eight bytes and loads the frame built from them and `seqSend`. -/
def Obligations.SendNextSendsOneFrameThroughTheGate : Prop :=
  ∀ (s : State) (e : EndpointId), (s.ep e).phase = .send → (s.ep e).fault = none →
    ((s.ep e).awaitingAck = true ∨ (s.ep e).sendBuffer = [] →
      exec (.sendNext e) s = .next (s.setEp e { s.ep e with phase := .drain })) ∧
    ((s.ep e).awaitingAck = false → (s.ep e).sendBuffer ≠ [] →
      exec (.sendNext e) s = .next (s.setEp e { s.ep e with
        sendBuffer := (s.ep e).sendBuffer.drop (min 8 (s.ep e).sendBuffer.length)
        txFrame := createFrame ((s.ep e).sendBuffer.take (min 8 (s.ep e).sendBuffer.length)) (s.ep e).seqSend
        txShift :=
          serialize (createFrame ((s.ep e).sendBuffer.take (min 8 (s.ep e).sendBuffer.length)) (s.ep e).seqSend)
        txCont := .cData
        phase := .tx }))

/-- `loadTx(f, c)` of at least the three bytes of an ACK, from `P_SEND`, `P_PROCESS` and `P_TIMEOUT`: three writes, then
`P_TX`, with at least 24 bits to send; from another phase it is not enabled. The model's choice: that it also needs no
`processFrame` call in progress (log 10), and the name of the stop (log 11). -/
def Obligations.LoadTxLoadsTheEncoder : Prop :=
  ∀ (s : State) (e : EndpointId) (f : List Byte) (c : FrameKind), (s.ep e).fault = none → (s.ep e).scan = Scan.idle →
    ((s.ep e).phase = .send ∨ (s.ep e).phase = .process ∨ (s.ep e).phase = .timeout → 3 ≤ f.length →
      exec (.loadTx e f c) s = .next (s.setEp e { s.ep e with
        txFrame := f
        txShift := serialize f
        txCont := match c with | .data => .cData | .ack => .cAck | .retx => .cRetx
        phase := .tx }) ∧ 24 ≤ (serialize f).length) ∧
    ((s.ep e).phase = .top ∨ (s.ep e).phase = .tx ∨ (s.ep e).phase = .drain ∨ (s.ep e).phase = .stopped →
      exec (.loadTx e f c) s = .fault .notEnabled)

/-- `TX_BIT` in the closed system: the head of `txShift` is in the peer's queue when the step ends, unchanged by the
`Perfect` medium and inverted by `LowNoise` exactly if the draw says so. -/
def Obligations.TxBitDeliversOneBitToThePeer : Prop :=
  ∀ (s : State) (e : EndpointId) (b : Bit) (rest : List Bit) (draw : Bit),
    (s.ep e).phase = .tx → (s.ep e).fault = none → (s.ep e).txShift = b :: rest →
    s.cfg.wiring = .closed → (∀ f : EndpointId, f ∈ s.registered) →
    (∀ n, s.cfg.phyqDepth = some n → (s.ep (peer e)).phyBitQueue.length < n) →
    (s.cfg.medium = .perfect → exec (.txBit e draw) s = .next
      ((s.setEp e { s.ep e with txShift := rest }).setEp (peer e)
        { s.ep (peer e) with phyBitQueue := (s.ep (peer e)).phyBitQueue ++ [b] })) ∧
    (s.cfg.medium = .lowNoise → exec (.txBit e draw) s = .next
      ((s.setEp e { s.ep e with txShift := rest }).setEp (peer e)
        { s.ep (peer e) with phyBitQueue := (s.ep (peer e)).phyBitQueue ++ [b != draw] }))

/-- `TX_BIT` in the open model of one endpoint outputs the bit on the port `phy_tx` (the port's record is the model's
own, log 16). -/
def Obligations.TxBitOutputsOnTheOpenPort : Prop :=
  ∀ (s : State) (e : EndpointId) (b : Bit) (rest : List Bit) (draw : Bit),
    (s.ep e).phase = .tx → (s.ep e).fault = none → (s.ep e).txShift = b :: rest → s.cfg.wiring = .openPort →
    exec (.txBit e draw) s = .next (s.setEp e { s.ep e with txShift := rest, phyTx := (s.ep e).phyTx ++ [b] })

/-- An unregistered sender raises the fatal `UnregisteredSender` before any delivery, and the step changes nothing
else. The model's choices: that the transition is modelled although boot excludes it (log 22, against U17), that
`exec` runs `transmit` in every state (log 17), and that it overwrites the kind of an earlier fault (log 13). -/
def Obligations.UnregisteredSenderIsFatal : Prop :=
  ∀ (s : State) (e : EndpointId) (draw : Bit), e ∉ s.registered →
    ((s.ep e).phase = .tx → (s.ep e).fault = none → (s.ep e).txShift ≠ [] → s.cfg.wiring = .closed →
      exec (.txBit e draw) s = .next (s.setEp e { s.ep e with fault := some .unregisteredSender })) ∧
    (∀ b : Bit, exec (.transmit e b draw) s = .next (s.setEp e { s.ep e with fault := some .unregisteredSender }))

/-- `TX_DONE`: after a new data frame and after a retransmission, `finishFrameSend` with the clock of this step; after an
ACK, the delivery half on `rxFrame`: in sequence, the bytes are delivered and `seqRecv` flips, else the frame is a
duplicate, and the sender's state is not touched. (An overfull `appBuffer`: `FullQueueRaisesBufferOverflow`.) -/
def Obligations.TxDoneEndsATransmission : Prop :=
  ∀ (s : State) (e : EndpointId), (s.ep e).phase = .tx → (s.ep e).fault = none → (s.ep e).txShift = [] →
    ((s.ep e).txCont = .cData → exec (.txDone e) s = .next (s.setEp e { s.ep e with
      trace := (s.ep e).trace ++ [.frameSent .data (s.ep e).txFrame]
      awaitingAck := true
      lastFrame := some (s.ep e).txFrame
      timerStart := s.now
      phase := .drain
      txCont := .cNone
      txFrame := []
      rxFrame := [] })) ∧
    (∀ f, (s.ep e).txCont = .cRetx → (s.ep e).lastFrame = some f →
      exec (.txDone e) s = .next (s.setEp e { s.ep e with
        trace := (s.ep e).trace ++ [.frameSent .retx (s.ep e).txFrame]
        awaitingAck := true
        lastFrame := some f
        timerStart := s.now
        phase := .top
        txCont := .cNone
        txFrame := []
        rxFrame := [] })) ∧
    (∀ (r : Byte) (data : List Byte), (s.ep e).txCont = .cAck → (s.ep e).rxFrame = r :: data →
      (data ≠ [] → ∀ n, s.cfg.appbufDepth = some n → (s.ep e).appBuffer.length + data.length ≤ n) →
      r = zext8 (s.ep e).seqRecv → exec (.txDone e) s = .next (s.setEp e { s.ep e with
        trace := (s.ep e).trace ++ [.frameSent .ack (s.ep e).txFrame, .deliver data]
        seqRecv := !(s.ep e).seqRecv
        appBuffer := (s.ep e).appBuffer ++ data
        phase := .timeout
        txCont := .cNone
        txFrame := []
        rxFrame := [] })) ∧
    (∀ (r : Byte) (data : List Byte), (s.ep e).txCont = .cAck → (s.ep e).rxFrame = r :: data →
      r ≠ zext8 (s.ep e).seqRecv → exec (.txDone e) s = .next (s.setEp e { s.ep e with
        trace := (s.ep e).trace ++ [.frameSent .ack (s.ep e).txFrame, .duplicate r]
        phase := .timeout
        txCont := .cNone
        txFrame := []
        rxFrame := [] }))

/-- `DRAIN` of bits and bytes that fit cuts the waiting bits, oldest first, into bytes most significant bit first, and keeps
the `k mod 8` bits of the unfinished byte. -/
def Obligations.DrainAssemblesBytesInOrder : Prop :=
  ∀ (s : State) (e : EndpointId), (s.ep e).phase = .drain → (s.ep e).fault = none →
    ((s.ep e).phyBitQueue ≠ [] → ∀ n, s.cfg.bitbufDepth = some n →
      (s.ep e).bitBuffer.length + (s.ep e).phyBitQueue.length ≤ n) →
    (8 ≤ (s.ep e).bitBuffer.length + (s.ep e).phyBitQueue.length → ∀ n, s.cfg.rxbufDepth = some n →
      (s.ep e).receiveBuffer.length + ((s.ep e).bitBuffer.length + (s.ep e).phyBitQueue.length) / 8 ≤ n) →
    ∃ (bytes : List Byte) (left : List Bit),
      (s.ep e).bitBuffer ++ (s.ep e).phyBitQueue = serialize bytes ++ left ∧
      bytes.length = ((s.ep e).bitBuffer.length + (s.ep e).phyBitQueue.length) / 8 ∧
      left.length = ((s.ep e).bitBuffer.length + (s.ep e).phyBitQueue.length) % 8 ∧
      exec (.drain e) s = .next (s.setEp e { s.ep e with
        phyBitQueue := []
        bitBuffer := left
        receiveBuffer := (s.ep e).receiveBuffer ++ bytes
        phase := .process })

/-- `PROCESS`: with an empty `receiveBuffer` only `phase` changes; else one `processFrame` call, whose result is
dispatched. -/
def Obligations.ProcessParsesAtMostOneFrame : Prop :=
  ∀ (s : State) (e : EndpointId), (s.ep e).phase = .process → (s.ep e).fault = none → (s.ep e).scan = Scan.idle →
    ((s.ep e).receiveBuffer = [] → exec (.process e) s = .next (s.setEp e { s.ep e with phase := .timeout })) ∧
    ((s.ep e).receiveBuffer ≠ [] → (processFrame (s.ep e).receiveBuffer).res = .noFrame →
      exec (.process e) s = .next (s.setEp e { s.ep e with
        receiveBuffer := (processFrame (s.ep e).receiveBuffer).rest
        trace := (s.ep e).trace ++ (processFrame (s.ep e).receiveBuffer).log
        phase := .timeout })) ∧
    (∀ f, (s.ep e).receiveBuffer ≠ [] → (processFrame (s.ep e).receiveBuffer).res = .frame f →
      exec (.process e) s = exec (.finishFrameReceive e f) (s.setEp e { s.ep e with
        receiveBuffer := (processFrame (s.ep e).receiveBuffer).rest
        trace := (s.ep e).trace ++ (processFrame (s.ep e).receiveBuffer).log }) ∧
      ∃ t, exec (.process e) s = .next t)

/-- `CHK_TIMEOUT`: nothing without an outstanding frame; `TimerNotStarted` with the timer not running; a difference of
exactly `TIMEOUT_TICKS` does not fire; more retransmits the stored bytes. Elapsed time is that of unbounded time; of a
finite width: `AFiniteTimeWidthWraps`. -/
def Obligations.ChkTimeoutRetransmitsWhenExpired : Prop :=
  ∀ (s : State) (e : EndpointId), (s.ep e).phase = .timeout → (s.ep e).fault = none →
    ((s.ep e).awaitingAck = false → exec (.chkTimeout e) s = .next (s.setEp e { s.ep e with phase := .top })) ∧
    ((s.ep e).awaitingAck = true → (s.ep e).timerStart = 0 →
      exec (.chkTimeout e) s = .next (s.setEp e { s.ep e with fault := some .timerNotStarted })) ∧
    (s.cfg.timeWidth = none → (s.ep e).awaitingAck = true → (s.ep e).timerStart ≠ 0 →
      s.now - (s.ep e).timerStart ≤ 100 * s.cfg.ticksPerMs →
      exec (.chkTimeout e) s = .next (s.setEp e { s.ep e with phase := .top })) ∧
    (∀ f, s.cfg.timeWidth = none → (s.ep e).awaitingAck = true → (s.ep e).timerStart ≠ 0 →
      (s.ep e).lastFrame = some f → s.now - (s.ep e).timerStart > 100 * s.cfg.ticksPerMs →
      exec (.chkTimeout e) s = .next (s.setEp e { s.ep e with
        trace := (s.ep e).trace ++ [.retransmit]
        txFrame := f
        txShift := serialize f
        txCont := .cRetx
        phase := .tx }))

/-- What is not enabled stops by name (U14): an operation of the event loop outside its phase, or of a faulted endpoint; a
deframer code where the call is in another state or another byte stands at the scan position; a frame code whose frame
is not at the head of the receive buffer; a helper away from where the operation that calls it would call it, and, of
the dispatch, where the endpoint is not live or may not dispatch or load.
The model's choices: the conditions of the codes and of the helpers (log 8, log 9, log 10; but R93's phases for what
loads the encoder) and the stop's name (log 11). -/
def Obligations.OperationsOutOfPlaceAreNotEnabled : Prop :=
  ∀ (s : State) (e : EndpointId) (draw : Bit) (b : Byte),
    ((s.ep e).phase ≠ .top ∨ (s.ep e).fault ≠ none → exec (.chkStop e) s = .fault .notEnabled) ∧
    ((s.ep e).phase ≠ .send ∨ (s.ep e).fault ≠ none → exec (.sendNext e) s = .fault .notEnabled) ∧
    ((s.ep e).phase ≠ .tx ∨ (s.ep e).txShift = [] ∨ (s.ep e).fault ≠ none →
      exec (.txBit e draw) s = .fault .notEnabled) ∧
    ((s.ep e).phase ≠ .tx ∨ (s.ep e).txShift ≠ [] ∨ (s.ep e).fault ≠ none →
      exec (.txDone e) s = .fault .notEnabled) ∧
    ((s.ep e).phase ≠ .drain ∨ (s.ep e).fault ≠ none → exec (.drain e) s = .fault .notEnabled) ∧
    ((s.ep e).phase ≠ .process ∨ (s.ep e).fault ≠ none → exec (.process e) s = .fault .notEnabled) ∧
    ((s.ep e).phase ≠ .timeout ∨ (s.ep e).fault ≠ none → exec (.chkTimeout e) s = .fault .notEnabled) ∧
    ((s.ep e).phase ≠ .process ∨ (s.ep e).fault ≠ none →
      exec (.startHunt e) s = .fault .notEnabled ∧ exec (.garbageHunt e b) s = .fault .notEnabled ∧
      exec (.start e) s = .fault .notEnabled ∧ exec (.stop e) s = .fault .notEnabled ∧
      exec (.esc e) s = .fault .notEnabled ∧ exec (.literal e b) s = .fault .notEnabled ∧
      exec (.literalEscaped e b) s = .fault .notEnabled ∧ exec (.escPair e b) s = .fault .notEnabled) ∧
    ((s.ep e).scan.mode ≠ .hunt ∨ (s.ep e).receiveBuffer[(s.ep e).scan.pos]? ≠ some 0x7B#8 →
      exec (.startHunt e) s = .fault .notEnabled) ∧
    ((s.ep e).scan.mode ≠ .hunt ∨ (s.ep e).receiveBuffer[(s.ep e).scan.pos]? ≠ some b ∨ b = 0x7B#8 →
      exec (.garbageHunt e b) s = .fault .notEnabled) ∧
    ((s.ep e).scan.mode ≠ .inFrame ∨ (s.ep e).receiveBuffer[(s.ep e).scan.pos]? ≠ some 0x7B#8 →
      exec (.start e) s = .fault .notEnabled) ∧
    ((s.ep e).scan.mode ≠ .inFrame ∨ (s.ep e).receiveBuffer[(s.ep e).scan.pos]? ≠ some 0x7D#8 →
      exec (.stop e) s = .fault .notEnabled) ∧
    ((s.ep e).scan.mode ≠ .inFrame ∨ (s.ep e).receiveBuffer[(s.ep e).scan.pos]? ≠ some 0x5C#8 →
      exec (.esc e) s = .fault .notEnabled ∧ exec (.escPair e b) s = .fault .notEnabled) ∧
    ((s.ep e).receiveBuffer[(s.ep e).scan.pos + 1]? ≠ some b → exec (.escPair e b) s = .fault .notEnabled) ∧
    ((s.ep e).scan.mode ≠ .inFrame ∨ (s.ep e).receiveBuffer[(s.ep e).scan.pos]? ≠ some b ∨
        b = 0x7B#8 ∨ b = 0x7D#8 ∨ b = 0x5C#8 →
      exec (.literal e b) s = .fault .notEnabled) ∧
    ((s.ep e).scan.mode ≠ .escaped ∨ (s.ep e).receiveBuffer[(s.ep e).scan.pos]? ≠ some b →
      exec (.literalEscaped e b) s = .fault .notEnabled) ∧
    (∀ i : Instr, positionOf i = some (.frame e) → (s.ep e).phase ≠ .process ∨ (s.ep e).fault ≠ none ∨
        (s.ep e).scan ≠ Scan.idle ∨ ¬ encode i <+: (s.ep e).receiveBuffer →
      exec i s = .fault .notEnabled) ∧
    (∀ f : List Byte, (s.ep e).fault ≠ none ∨ (s.ep e).phase ≠ .tx ∨ (s.ep e).txShift ≠ [] ∨
        (¬ ((s.ep e).txCont = .cData ∧ f = (s.ep e).txFrame) ∧
          ¬ ((s.ep e).txCont = .cRetx ∧ (s.ep e).lastFrame = some f)) →
      exec (.finishFrameSend e f) s = .fault .notEnabled) ∧
    (∀ f : List Byte, (s.ep e).fault ≠ none ∨ (s.ep e).phase ≠ .tx ∨ (s.ep e).txShift ≠ [] ∨
        (s.ep e).txCont ≠ .cAck ∨ f ≠ (s.ep e).rxFrame →
      exec (.deliverHalf e f) s = .fault .notEnabled) ∧
    ((s.ep e).fault ≠ none ∨ (s.ep e).phase = .stopped ∨ (s.ep e).phase = .tx ∨ (s.ep e).scan ≠ Scan.idle →
      exec (.ackBranch e) s = .fault .notEnabled ∧ exec (.ackTagByte e) s = .fault .notEnabled ∧
      exec (.finishFrameReceive e [0x06#8]) s = .fault .notEnabled) ∧
    (∀ (f : List Byte) (c : FrameKind), (s.ep e).fault ≠ none ∨ (s.ep e).scan ≠ Scan.idle ∨
        ((s.ep e).phase ≠ .send ∧ (s.ep e).phase ≠ .process ∧ (s.ep e).phase ≠ .timeout) →
      exec (.loadTx e f c) s = .fault .notEnabled ∧ exec (.dataBranch e f) s = .fault .notEnabled ∧
      (f ≠ [0x06#8] → exec (.finishFrameReceive e f) s = .fault .notEnabled))

/-! ### The ports -/

/-- `APP_PUSH` (R100) and `PHY_RX` (R101) append at the tail in every phase, stopped or faulted, and change nothing else.
That `PHY_RX`, "Enabled always", is so in the closed system too, where only its script line is refused
(`StepRunsTheScriptedInstruction`), is the model's reading (log 17). -/
def Obligations.PushPortsAppendAtTheTail : Prop :=
  ∀ (s : State) (e : EndpointId),
    (∀ bs : List Byte, (∀ n, s.cfg.sendbufDepth = some n → (s.ep e).sendBuffer.length + bs.length ≤ n) →
      exec (.appPush e bs) s = .next (s.setEp e { s.ep e with sendBuffer := (s.ep e).sendBuffer ++ bs })) ∧
    (∀ b : Bit, (∀ n, s.cfg.phyqDepth = some n → (s.ep e).phyBitQueue.length < n) →
      exec (.phyRx e b) s = .next (s.setEp e { s.ep e with phyBitQueue := (s.ep e).phyBitQueue ++ [b] })) ∧
    exec (.appPush e []) s = .next s

/-- `APP_RETRIEVE` returns the delivered bytes and empties `appBuffer`; a second one returns `[]` (the model's `result`
holds the returned value, log 7). -/
def Obligations.AppRetrieveReturnsAndEmpties : Prop :=
  ∀ (s : State) (e : EndpointId),
    exec (.appRetrieve e) s =
      .next { s.setEp e { s.ep e with appBuffer := [] } with result := .bytes (s.ep e).appBuffer } ∧
    runOps [.appRetrieve e, .appRetrieve e] s =
      .next { s.setEp e { s.ep e with appBuffer := [] } with result := .bytes [] }

/-- `STOP_REQ` sets the stop flag in every phase and nothing else, again it changes nothing, and the next `CHK_STOP` ends
the loop. -/
def Obligations.StopReqTakesEffectAtTheNextChkStop : Prop :=
  ∀ (s : State) (e : EndpointId),
    exec (.stopReq e) s = .next (s.setEp e { s.ep e with stopReq := true }) ∧
    runOps [.stopReq e, .stopReq e] s = exec (.stopReq e) s ∧
    ((s.ep e).phase = .top → (s.ep e).fault = none →
      runOps [.stopReq e, .chkStop e] s = .next (s.setEp e { s.ep e with stopReq := true, phase := .stopped }))

/-- `TIME_ADV(d)` with unbounded time: `now <- now + d` and nothing else. (A finite width: `AFiniteTimeWidthWraps`.) -/
def Obligations.TimeAdvMovesTheClock : Prop :=
  ∀ (s : State) (d : Nat), s.cfg.timeWidth = none → exec (.timeAdv d) s = .next { s with now := s.now + d }

/-- A push beyond a finite depth raises the fatal `BufferOverflow` at the endpoint that owns the queue, and the step
changes nothing else: the five queues, `TX_BIT` into the peer's and the delivery that `TX_DONE` runs. The model's choices:
that `DRAIN` overflows on the bits waiting together (log 18), that the sender's `txShift` stays and that the kind of an
earlier fault is overwritten (log 13). -/
def Obligations.FullQueueRaisesBufferOverflow : Prop :=
  ∀ (s : State) (e : EndpointId) (n : Nat),
    (∀ bs : List Byte, bs ≠ [] → s.cfg.sendbufDepth = some n → n < (s.ep e).sendBuffer.length + bs.length →
      exec (.appPush e bs) s = .next (s.setEp e { s.ep e with fault := some .bufferOverflow })) ∧
    (∀ b : Bit, s.cfg.phyqDepth = some n → n ≤ (s.ep e).phyBitQueue.length →
      exec (.phyRx e b) s = .next (s.setEp e { s.ep e with fault := some .bufferOverflow })) ∧
    ((s.ep e).phase = .drain → (s.ep e).fault = none → (s.ep e).phyBitQueue ≠ [] → s.cfg.bitbufDepth = some n →
      n < (s.ep e).bitBuffer.length + (s.ep e).phyBitQueue.length →
      exec (.drain e) s = .next (s.setEp e { s.ep e with fault := some .bufferOverflow })) ∧
    ((s.ep e).phase = .drain → (s.ep e).fault = none →
      8 ≤ (s.ep e).bitBuffer.length + (s.ep e).phyBitQueue.length → s.cfg.rxbufDepth = some n →
      n < (s.ep e).receiveBuffer.length + ((s.ep e).bitBuffer.length + (s.ep e).phyBitQueue.length) / 8 →
      exec (.drain e) s = .next (s.setEp e { s.ep e with fault := some .bufferOverflow })) ∧
    (∀ data : List Byte, data ≠ [] → (s.ep e).phase = .tx → (s.ep e).fault = none → (s.ep e).txShift = [] →
      (s.ep e).txCont = .cAck → (s.ep e).rxFrame = zext8 (s.ep e).seqRecv :: data → s.cfg.appbufDepth = some n →
      n < (s.ep e).appBuffer.length + data.length →
      exec (.deliverHalf e (zext8 (s.ep e).seqRecv :: data)) s =
        .next (s.setEp e { s.ep e with fault := some .bufferOverflow }) ∧
      exec (.txDone e) s = .next (s.setEp e { s.ep e with fault := some .bufferOverflow })) ∧
    (∀ draw : Bit, (s.ep e).phase = .tx → (s.ep e).fault = none → (s.ep e).txShift ≠ [] → s.cfg.wiring = .closed →
      (∀ f : EndpointId, f ∈ s.registered) → s.cfg.phyqDepth = some n → n ≤ (s.ep (peer e)).phyBitQueue.length →
      exec (.txBit e draw) s =
        .next (s.setEp (peer e) { s.ep (peer e) with fault := some .bufferOverflow }))

/-! ### The pure functions -/

/-- The pure functions run as operations return the value their rule gives, the sender's code points the bytes the
sender puts on the wire, and neither changes anything else (`result` is the model's own, log 7, log 19); `assemble` takes
exactly eight bits (log 12). -/
def Obligations.PureFunctionsAndCodesReturnTheirValue : Prop :=
  ∀ s : State,
    (∀ f : List Byte, exec (.serialize f) s = .next { s with result := .bits (f.flatMap bitsMSB) }) ∧
    (∀ b7 b6 b5 b4 b3 b2 b1 b0 : Bit, exec (.assemble [b7, b6, b5, b4, b3, b2, b1, b0]) s =
      .next { s with result := .byte (BitVec.ofNat 8 (128 * b7.toNat + 64 * b6.toNat + 32 * b5.toNat + 16 * b4.toNat +
        8 * b3.toNat + 4 * b2.toNat + 2 * b1.toNat + b0.toNat)) }) ∧
    (∀ l : List Bit, l.length ≠ 8 → exec (.assemble l) s = .fault .operandOutsideDomain) ∧
    (∀ l : List Byte, exec (.parity l) s =
      .next { s with result := .byte (BitVec.ofNat 8 ((l.map popcount8).sum % 2)) }) ∧
    (∀ b : Byte, exec (.stuff b) s =
      .next { s with result := .bytes (if b = 0x7B#8 ∨ b = 0x7D#8 ∨ b = 0x5C#8 then [0x5C#8, b] else [b]) }) ∧
    (∀ l : List Byte, exec (.stuffAll l) s = .next { s with result := .bytes (l.flatMap stuff) }) ∧
    (∀ (d : List Byte) (q : Bit), exec (.createFrame d q) s = .next { s with
      result := .bytes ([0x7B#8] ++ stuffAll (d ++ [zext8 q]) ++ stuffAll [parity (d ++ [zext8 q])] ++ [0x7D#8]) }) ∧
    exec .ackFrame s = .next { s with result := .bytes [0x7B#8, 0x06#8, 0x7D#8] } ∧
    (∀ b : Bit, exec (.deliverPerfect b) s = .next { s with result := .bit b }) ∧
    (∀ b draw : Bit, exec (.deliverLowNoise b draw) s = .next { s with result := .bit (xor b draw) }) ∧
    exec (.seqByte false) s = .next { s with result := .byte 0x00#8 } ∧
    exec (.seqByte true) s = .next { s with result := .byte 0x01#8 } ∧
    exec (.parityByte false) s = .next { s with result := .byte 0x00#8 } ∧
    exec (.parityByte true) s = .next { s with result := .byte 0x01#8 } ∧
    exec .stuff7B s = .next { s with result := .bytes [0x5C#8, 0x7B#8] } ∧
    exec .stuff7D s = .next { s with result := .bytes [0x5C#8, 0x7D#8] } ∧
    exec .stuff5C s = .next { s with result := .bytes [0x5C#8, 0x5C#8] }

/-- `processFrame(rb)` run as an operation returns the new buffer and the result, and logs its events; it touches
nothing else. That it does so in every state, of a stopped or faulted endpoint too, is the model's choice (log 10). Its
results on the frames of R163 are stated by `FramingRoundTrip`. -/
def Obligations.ProcessFrameReturnsAndLogs : Prop :=
  ∀ (s : State) (e : EndpointId) (rb : List Byte),
    exec (.processFrame e rb) s = .next
      { s.setEp e { s.ep e with trace := (s.ep e).trace ++ (processFrame rb).log } with
        result := .parsed (processFrame rb).rest (processFrame rb).res }

/-! ### The PAR machine -/

/-- `finishFrameSend(f)` where `TX_DONE` calls it (`f = txFrame` after a new data frame, `f = lastFrame` after a
retransmission): awaiting, stored, timer started at the clock's reading; nothing else. (Where the bare procedure is
enabled, here and in the next three: log 10.) -/
def Obligations.FinishFrameSendStartsTheTimer : Prop :=
  ∀ (s : State) (e : EndpointId) (f : List Byte), (s.ep e).phase = .tx → (s.ep e).fault = none →
    (s.ep e).txShift = [] →
    ((s.ep e).txCont = .cData ∧ f = (s.ep e).txFrame) ∨ ((s.ep e).txCont = .cRetx ∧ (s.ep e).lastFrame = some f) →
    exec (.finishFrameSend e f) s =
      .next (s.setEp e { s.ep e with awaitingAck := true, lastFrame := some f, timerStart := s.now })

/-- `finishFrameReceive([06])`, `ackBranch` and the code `ACKTAG`: an ACK clears the outstanding frame, flips `seqSend`
and stops the timer, whether or not a frame is outstanding. -/
def Obligations.AnAckIsObservedUnconditionally : Prop :=
  ∀ (s : State) (e : EndpointId), (s.ep e).canDispatch →
    ∃ t : State, t = s.setEp e { s.ep e with
        lastFrame := none
        awaitingAck := false
        seqSend := !(s.ep e).seqSend
        timerStart := 0
        trace := (s.ep e).trace ++ [.ackSeen]
        phase := .timeout } ∧
      exec (.ackBranch e) s = .next t ∧ exec (.ackTagByte e) s = .next t ∧
      exec (.finishFrameReceive e [0x06#8]) s = .next t

/-- `finishFrameReceive(F)` with any other non-empty `F`, and `dataBranch(F)`: an ACK is loaded, whatever `F[0]` is; the
sender's state is not touched. -/
def Obligations.EveryOtherSequenceIsAcknowledged : Prop :=
  ∀ (s : State) (e : EndpointId) (f : List Byte), (s.ep e).canLoadTx → f ≠ [] →
    ∃ t : State, t = s.setEp e { s.ep e with
        rxFrame := f
        txFrame := [0x7B#8, 0x06#8, 0x7D#8]
        txShift := serialize [0x7B#8, 0x06#8, 0x7D#8]
        txCont := .cAck
        phase := .tx } ∧
      exec (.dataBranch e f) s = .next t ∧ (f ≠ [0x06#8] → exec (.finishFrameReceive e f) s = .next t)

/-- `deliverHalf(F)` where `TX_DONE` calls it, after the last bit of the ACK and with `F = rxFrame`: in sequence, flip `seqRecv` and deliver `F[1..]`; else a duplicate, not delivered. -/
def Obligations.DeliverHalfDeliversInSequence : Prop :=
  ∀ (s : State) (e : EndpointId) (r : Byte) (data : List Byte), (s.ep e).phase = .tx → (s.ep e).fault = none →
    (s.ep e).txShift = [] → (s.ep e).txCont = .cAck → (s.ep e).rxFrame = r :: data →
    (r = zext8 (s.ep e).seqRecv →
      (data ≠ [] → ∀ n, s.cfg.appbufDepth = some n → (s.ep e).appBuffer.length + data.length ≤ n) →
      exec (.deliverHalf e (r :: data)) s = .next (s.setEp e { s.ep e with
        seqRecv := !(s.ep e).seqRecv
        appBuffer := (s.ep e).appBuffer ++ data
        trace := (s.ep e).trace ++ [.deliver data] })) ∧
    (r ≠ zext8 (s.ep e).seqRecv → exec (.deliverHalf e (r :: data)) s =
      .next (s.setEp e { s.ep e with trace := (s.ep e).trace ++ [.duplicate r] }))

/-- Duplicate-delivery idempotence (FC §8): the same frame with the expected sequence byte, given to
`finishFrameReceive` twice in succession, each time with the ACK sent to its last bit, is acknowledged twice and delivered
once. -/
def Obligations.SecondDeliveryIsAcknowledgedNotDelivered : Prop :=
  ∀ (s : State) (e : EndpointId) (data : List Byte) (draws draws' : List Bit), (s.ep e).canLoadTx →
    s.cfg.wiring = .closed → (∀ f : EndpointId, f ∈ s.registered) → s.cfg.phyqDepth = none →
    s.cfg.appbufDepth = none → draws.length = 24 → draws'.length = 24 →
    ∃ t : State,
      runOps ([.finishFrameReceive e (zext8 (s.ep e).seqRecv :: data)] ++ txBits e draws ++ [.txDone e] ++
        [.finishFrameReceive e (zext8 (s.ep e).seqRecv :: data)] ++ txBits e draws' ++ [.txDone e]) s = .next t ∧
      (t.ep e).appBuffer = (s.ep e).appBuffer ++ data ∧ (t.ep e).seqRecv = !(s.ep e).seqRecv ∧
      (t.ep e).trace = (s.ep e).trace ++ [.frameSent .ack [0x7B#8, 0x06#8, 0x7D#8], .deliver data,
        .frameSent .ack [0x7B#8, 0x06#8, 0x7D#8], .duplicate (zext8 (s.ep e).seqRecv)]

/-- `transmit` delivers the bit to the registered peer and to nobody else: not to the sender; an unregistered sender
fails, and a full queue overflows at the peer. The model's choices: that `exec` runs it in every state (log 17), that the
unregistered sender is modelled at all (log 22), and that the kind of an earlier fault is overwritten (log 13). -/
def Obligations.TransmitDeliversToThePeer : Prop :=
  ∀ (s : State) (e : EndpointId) (b draw : Bit),
    (e ∉ s.registered →
      exec (.transmit e b draw) s = .next (s.setEp e { s.ep e with fault := some .unregisteredSender })) ∧
    (∀ out : Bit, e ∈ s.registered → peer e ∈ s.registered →
      (s.cfg.medium = .perfect → out = b) → (s.cfg.medium = .lowNoise → out = xor b draw) →
      ((∀ n, s.cfg.phyqDepth = some n → (s.ep (peer e)).phyBitQueue.length < n) →
        exec (.transmit e b draw) s = .next (s.setEp (peer e)
          { s.ep (peer e) with phyBitQueue := (s.ep (peer e)).phyBitQueue ++ [out] })) ∧
      (∀ n, s.cfg.phyqDepth = some n → n ≤ (s.ep (peer e)).phyBitQueue.length →
        exec (.transmit e b draw) s = .next (s.setEp (peer e)
          { s.ep (peer e) with fault := some .bufferOverflow }))) ∧
    (e ∈ s.registered → peer e ∉ s.registered → exec (.transmit e b draw) s = .next s)

/-! ### The deframer's byte codes (the small steps of `PROCESS`, log 8) -/

/-- `START.hunt` discards what precedes the start tag; `GARBAGE.hunt` passes one byte, and where the buffer ends without
a start tag, all of it is discarded. -/
def Obligations.HuntingDiscardsGarbage : Prop :=
  ∀ (s : State) (e : EndpointId), (s.ep e).phase = .process → (s.ep e).fault = none → (s.ep e).scan.mode = .hunt →
    (∀ (garbage rest : List Byte), (s.ep e).receiveBuffer = garbage ++ 0x7B#8 :: rest →
      (s.ep e).scan.pos = garbage.length →
      exec (.startHunt e) s = .next (s.setEp e { s.ep e with
        receiveBuffer := 0x7B#8 :: rest
        trace := (s.ep e).trace ++ (if garbage = [] then [] else [.discard garbage])
        scan := if rest = [] then Scan.idle else ⟨.inFrame, 1, []⟩
        phase := if rest = [] then .timeout else .process })) ∧
    (∀ (garbage rest : List Byte) (b : Byte), (s.ep e).receiveBuffer = garbage ++ b :: rest →
      (s.ep e).scan.pos = garbage.length → b ≠ 0x7B#8 → rest ≠ [] →
      exec (.garbageHunt e b) s = .next (s.setEp e { s.ep e with
        scan := ⟨.hunt, garbage.length + 1, (s.ep e).scan.extracted⟩ })) ∧
    (∀ (garbage : List Byte) (b : Byte), (s.ep e).receiveBuffer = garbage ++ [b] →
      (s.ep e).scan.pos = garbage.length → b ≠ 0x7B#8 →
      exec (.garbageHunt e b) s = .next (s.setEp e { s.ep e with
        receiveBuffer := []
        trace := (s.ep e).trace ++ [.discard (garbage ++ [b])]
        scan := Scan.idle
        phase := .timeout }))

/-- `START` inside a frame: the bytes before it are removed and logged, and extraction restarts from it. -/
def Obligations.StartInsideAFrameRestarts : Prop :=
  ∀ (s : State) (e : EndpointId) (before rest : List Byte), (s.ep e).phase = .process → (s.ep e).fault = none →
    (s.ep e).scan.mode = .inFrame → (s.ep e).receiveBuffer = before ++ 0x7B#8 :: rest →
    (s.ep e).scan.pos = before.length → before ≠ [] →
    exec (.start e) s = .next (s.setEp e { s.ep e with
      receiveBuffer := 0x7B#8 :: rest
      trace := (s.ep e).trace ++ [.discard before]
      scan := if rest = [] then Scan.idle else ⟨.inFrame, 1, []⟩
      phase := if rest = [] then .timeout else .process })

/-- `ESC` drops itself and makes the next byte literal; a lone `ESC` at the end waits and removes nothing;
`LITERAL.escaped` appends any byte; `ESC_PAIR` is the two together. -/
def Obligations.EscapedBytesAreTakenLiterally : Prop :=
  ∀ (s : State) (e : EndpointId), (s.ep e).phase = .process → (s.ep e).fault = none →
    (∀ (before rest : List Byte), (s.ep e).scan.mode = .inFrame →
      (s.ep e).receiveBuffer = before ++ 0x5C#8 :: rest → (s.ep e).scan.pos = before.length →
      (rest ≠ [] → exec (.esc e) s = .next (s.setEp e { s.ep e with
        scan := ⟨.escaped, before.length + 1, (s.ep e).scan.extracted⟩ })) ∧
      (rest = [] → exec (.esc e) s = .next (s.setEp e { s.ep e with scan := Scan.idle, phase := .timeout })) ∧
      (∀ (b : Byte) (rest' : List Byte), rest = b :: rest' → exec (.escPair e b) s = .next (s.setEp e { s.ep e with
        scan := if rest' = [] then Scan.idle else ⟨.inFrame, before.length + 2, (s.ep e).scan.extracted ++ [b]⟩
        phase := if rest' = [] then .timeout else .process }))) ∧
    (∀ (before rest : List Byte) (b : Byte), (s.ep e).scan.mode = .escaped →
      (s.ep e).receiveBuffer = before ++ b :: rest → (s.ep e).scan.pos = before.length →
      exec (.literalEscaped e b) s = .next (s.setEp e { s.ep e with
        scan := if rest = [] then Scan.idle else ⟨.inFrame, before.length + 1, (s.ep e).scan.extracted ++ [b]⟩
        phase := if rest = [] then .timeout else .process }))

/-- `LITERAL`: any byte but the three tags is appended at an unescaped position, `0x06` included; where the bytes run
out, the call returns "no frame" and the buffer is kept. -/
def Obligations.LiteralBytesAreAppended : Prop :=
  ∀ (s : State) (e : EndpointId) (before rest : List Byte) (b : Byte), (s.ep e).phase = .process →
    (s.ep e).fault = none → (s.ep e).scan.mode = .inFrame → (s.ep e).receiveBuffer = before ++ b :: rest →
    (s.ep e).scan.pos = before.length → b ≠ 0x7B#8 → b ≠ 0x7D#8 → b ≠ 0x5C#8 →
    exec (.literal e b) s = .next (s.setEp e { s.ep e with
      scan := if rest = [] then Scan.idle else ⟨.inFrame, before.length + 1, (s.ep e).scan.extracted ++ [b]⟩
      phase := if rest = [] then .timeout else .process })

/-- `STOP` removes the frame through the stop tag, whatever the classification then decides: nothing extracted is
dropped, a parity mismatch is damaged and dropped, one byte is handed on unchecked, and a match hands on the sequence
byte rotated to the front. -/
def Obligations.StopEndsTheFrameAndClassifies : Prop :=
  ∀ (s : State) (e : EndpointId) (before rest : List Byte), (s.ep e).phase = .process → (s.ep e).fault = none →
    (s.ep e).scan.mode = .inFrame → (s.ep e).receiveBuffer = before ++ 0x7D#8 :: rest →
    (s.ep e).scan.pos = before.length →
    ((s.ep e).scan.extracted = [] → exec (.stop e) s = .next (s.setEp e { s.ep e with
      receiveBuffer := rest, trace := (s.ep e).trace ++ [.emptyFrame], scan := Scan.idle, phase := .timeout })) ∧
    (∀ b : Byte, (s.ep e).scan.extracted = [b] → ∃ t, exec (.stop e) s = .next t ∧
      exec (.finishFrameReceive e [b]) (s.setEp e { s.ep e with receiveBuffer := rest, scan := Scan.idle }) = .next t) ∧
    (∀ (d : List Byte) (q p : Byte), (s.ep e).scan.extracted = d ++ [q, p] → parity (d ++ [q]) ≠ p →
      exec (.stop e) s = .next (s.setEp e { s.ep e with
        receiveBuffer := rest
        trace := (s.ep e).trace ++ [.damaged (d ++ [q, p])]
        scan := Scan.idle
        phase := .timeout })) ∧
    (∀ (d : List Byte) (q p : Byte), (s.ep e).scan.extracted = d ++ [q, p] → parity (d ++ [q]) = p →
      ∃ t, exec (.stop e) s = .next t ∧ exec (.finishFrameReceive e (q :: d))
        (s.setEp e { s.ep e with receiveBuffer := rest, scan := Scan.idle }) = .next t)

/-- THE DEFRAMER'S BYTE CODES REFINE `PROCESS` (R166): reading the receive buffer byte by byte, decoding each byte at the
position the destuffer is in and running its code, ends in exactly the state that the atomic `PROCESS` gives, after at
most one code per byte. (That the byte codes are these small steps is the model's choice, log 8.) -/
def Obligations.ByteCodesRefineProcess : Prop :=
  ∀ (s : State) (e : EndpointId), (s.ep e).phase = .process → (s.ep e).fault = none → (s.ep e).scan = Scan.idle →
    (s.ep e).receiveBuffer ≠ [] →
    ∃ n t, n ≤ (s.ep e).receiveBuffer.length ∧ deframeBytes e n s = .next t ∧ (t.ep e).phase ≠ .process ∧
      exec (.process e) s = .next t

/-! ### The frame codes -/

/-- The frame rows at the head of the receive buffer: `ACK_FRAME` is observed as an ACK, `DATA_FRAME` and
`ONE_BYTE_FRAME` are dispatched as the sequence the deframer returns for them, `EMPTY_FRAME` is dropped. -/
def Obligations.FrameCodesAreConsumedAndDispatched : Prop :=
  ∀ (s : State) (e : EndpointId) (rest : List Byte), (s.ep e).phase = .process → (s.ep e).fault = none →
    (s.ep e).scan = Scan.idle →
    ((s.ep e).receiveBuffer = [0x7B#8, 0x06#8, 0x7D#8] ++ rest → exec (.ackFrameCode e) s =
      .next (s.setEp e { s.ep e with
        receiveBuffer := rest
        lastFrame := none
        awaitingAck := false
        seqSend := !(s.ep e).seqSend
        timerStart := 0
        trace := (s.ep e).trace ++ [.ackSeen]
        phase := .timeout })) ∧
    (∀ (d : List Byte) (q : Bit), (s.ep e).receiveBuffer = createFrame d q ++ rest → exec (.dataFrame e d q) s =
      .next (s.setEp e { s.ep e with
        receiveBuffer := rest
        rxFrame := zext8 q :: d
        txFrame := [0x7B#8, 0x06#8, 0x7D#8]
        txShift := serialize [0x7B#8, 0x06#8, 0x7D#8]
        txCont := .cAck
        phase := .tx })) ∧
    ((s.ep e).receiveBuffer = [0x7B#8, 0x7D#8] ++ rest → exec (.emptyFrame e) s =
      .next (s.setEp e { s.ep e with
        receiveBuffer := rest, trace := (s.ep e).trace ++ [.emptyFrame], phase := .timeout })) ∧
    (∀ b : Byte, b ≠ 0x06#8 → (s.ep e).receiveBuffer = [0x7B#8] ++ stuff b ++ [0x7D#8] ++ rest →
      exec (.oneByteFrame e b) s = .next (s.setEp e { s.ep e with
        receiveBuffer := rest
        rxFrame := [b]
        txFrame := [0x7B#8, 0x06#8, 0x7D#8]
        txShift := serialize [0x7B#8, 0x06#8, 0x7D#8]
        txCont := .cAck
        phase := .tx }))

/-- A frame code does what the atomic `PROCESS` does on a receive buffer that begins with its encoding. -/
def Obligations.FrameCodesActAsProcess : Prop :=
  ∀ (s : State) (e : EndpointId) (i : Instr), positionOf i = some (.frame e) → (s.ep e).phase = .process →
    (s.ep e).fault = none → (s.ep e).scan = Scan.idle → encode i <+: (s.ep e).receiveBuffer →
    exec i s = exec (.process e) s

/-! ### Framing -/

/-- Framing round trip (FC §8): for every byte list of any length, after any garbage without a start tag and before any
tail, the deframer returns the sequence byte and the application bytes, keeps the tail and discards just the garbage;
and the ACK frame gives `[06]`. -/
def Obligations.FramingRoundTrip : Prop :=
  (∀ (g d t : List Byte) (q : Bit), 0x7B#8 ∉ g →
    processFrame (g ++ createFrame d q ++ t) =
      ⟨t, .frame (zext8 q :: d), if g = [] then [] else [.discard g]⟩) ∧
  processFrame ackFrame = ⟨[], .frame [0x06#8], []⟩

/-- Stuffing loses nothing and lengthens a list by its tag bytes. -/
def Obligations.StuffingIsInjective : Prop :=
  (∀ l m : List Byte, stuffAll l = stuffAll m → l = m) ∧
  (∀ l : List Byte, (stuffAll l).length = l.length + l.countP isTag)

/-- Sizes on the wire: `n + e + 4` bytes for `n` application bytes of which `e` are tags, so 5 to 20 bytes and 40 to 160
bits as sent; 3 bytes and 24 bits for an ACK. -/
def Obligations.FrameSizes : Prop :=
  (∀ (d : List Byte) (q : Bit), (createFrame d q).length = d.length + d.countP isTag + 4 ∧
    (serialize (createFrame d q)).length = 8 * (d.length + d.countP isTag + 4)) ∧
  (∀ (d : List Byte) (q : Bit), 1 ≤ d.length → d.length ≤ 8 →
    5 ≤ (createFrame d q).length ∧ (createFrame d q).length ≤ 20 ∧
    40 ≤ (serialize (createFrame d q)).length ∧ (serialize (createFrame d q)).length ≤ 160) ∧
  ackFrame.length = 3 ∧ (serialize ackFrame).length = 24

/-- `parity(L)` is the XOR of all bits of `L`, additive over concatenation, blind to the order of the bytes, and
0 or 1. -/
def Obligations.ParityIsTheXorOfAllBits : Prop :=
  (∀ l : List Byte, parity l = BitVec.ofNat 8 ((l.map popcount8).sum % 2)) ∧
  (∀ l : List Byte, parity l = zext8 ((serialize l).foldl xor false)) ∧
  (∀ l m : List Byte, parity (l ++ m) = parity l ^^^ parity m) ∧
  (∀ l m : List Byte, l.Perm m → parity l = parity m) ∧
  parity [] = 0x00#8 ∧ parity [0x00#8] = 0x00#8 ∧ parity [0x01#8] = 0x01#8 ∧ parity [0xFF#8] = 0x00#8 ∧
  parity [0x68#8, 0x65#8, 0x6C#8, 0x6C#8, 0x6F#8, 0x00#8] = 0x01#8

/-- The content of every built frame with its parity byte has an even number of 1 bits. -/
def Obligations.BuiltFramesHaveEvenParity : Prop :=
  ∀ (d : List Byte) (q : Bit), parity (d ++ [zext8 q] ++ [parity (d ++ [zext8 q])]) = 0x00#8

/-- An odd number of inverted bits in the destuffed content of a parity-correct frame is detected: the checker takes
the frame as damaged. -/
def Obligations.OddFlipsAreDetected : Prop :=
  ∀ (l m : List Byte) (p r : Byte), l ≠ [] → l.length = m.length → parity l = p →
    (List.zipWith xor (serialize (l ++ [p])) (serialize (m ++ [r]))).count true % 2 = 1 →
    ∀ rest log, classify (m ++ [r]) rest log = ⟨rest, .noFrame, log ++ [.damaged (m ++ [r])]⟩

/-- Encoder and decoder are inverse on an aligned stream, in any number of drains, cut anywhere. -/
def Obligations.DecoderInvertsEncoder : Prop :=
  (∀ f : List Byte, regroup (serialize f) = (f, [])) ∧
  (∀ a b : List Bit, regroup (a ++ b) =
    ((regroup a).1 ++ (regroup ((regroup a).2 ++ b)).1, (regroup ((regroup a).2 ++ b)).2))

/-- One `processFrame` call: the new buffer is a suffix of the old one, a returned sequence is not empty, and a call
that waits is stable: called again on what it kept, it waits again and neither removes nor logs anything. -/
def Obligations.ProcessFrameKeepsASuffixAndWaitsStably : Prop :=
  ∀ rb : List Byte,
    (processFrame rb).rest <:+ rb ∧
    (∀ f, (processFrame rb).res = .frame f → f ≠ []) ∧
    ((processFrame rb).res = .noFrame → .emptyFrame ∉ (processFrame rb).log →
      (∀ x, .damaged x ∉ (processFrame rb).log) →
      processFrame (processFrame rb).rest = ⟨(processFrame rb).rest, .noFrame, []⟩)

/-! ### Transmission over the wire -/

/-- A whole transmission (`TX_FRAME`): one `TX_BIT` per bit of `txShift` empties it and appends exactly those bits, each
inverted only where its draw says so on the `LowNoise` medium, to the peer's queue, in order; nothing else changes. -/
def Obligations.TransmissionDeliversTheBitsInOrder : Prop :=
  ∀ (s : State) (e : EndpointId) (draws : List Bit), (s.ep e).phase = .tx → (s.ep e).fault = none →
    s.cfg.wiring = .closed → (∀ f : EndpointId, f ∈ s.registered) → s.cfg.phyqDepth = none →
    draws.length = (s.ep e).txShift.length →
    runOps (txBits e draws) s = .next ((s.setEp e { s.ep e with txShift := [] }).setEp (peer e)
      { s.ep (peer e) with
        phyBitQueue := (s.ep (peer e)).phyBitQueue ++ deliveredBits s.cfg.medium (s.ep e).txShift draws })

/-- ONE DATA FRAME END TO END on the `Perfect` medium: an endpoint with its gate open sends the first up to eight bytes
it holds, the peer drains, parses and acknowledges them and delivers them exactly if the sequence bits agree; the
sender is left awaiting the ACK whose 24 bits are in its queue. -/
def Obligations.OneFrameCrossesTheLink : Prop :=
  ∀ (s : State) (e : EndpointId) (draws acks : List Bit),
    (s.ep e).phase = .send → (s.ep e).fault = none → (s.ep e).awaitingAck = false → (s.ep e).sendBuffer ≠ [] →
    (s.ep (peer e)).phase = .drain → (s.ep (peer e)).fault = none → (s.ep (peer e)).scan = Scan.idle →
    (s.ep (peer e)).phyBitQueue = [] → (s.ep (peer e)).bitBuffer = [] → (s.ep (peer e)).receiveBuffer = [] →
    s.cfg.wiring = .closed → s.cfg.medium = .perfect → (∀ f : EndpointId, f ∈ s.registered) →
    s.cfg.phyqDepth = none → s.cfg.bitbufDepth = none → s.cfg.rxbufDepth = none → s.cfg.appbufDepth = none →
    draws.length = 8 * (createFrame ((s.ep e).sendBuffer.take 8) (s.ep e).seqSend).length → acks.length = 24 →
    ∃ t : State,
      runOps ([.sendNext e] ++ txBits e draws ++ [.txDone e, .drain (peer e), .process (peer e)] ++
        txBits (peer e) acks ++ [.txDone (peer e)]) s = .next t ∧
      (t.ep e).sendBuffer = (s.ep e).sendBuffer.drop 8 ∧ (t.ep e).awaitingAck = true ∧
      (t.ep e).lastFrame = some (createFrame ((s.ep e).sendBuffer.take 8) (s.ep e).seqSend) ∧
      (t.ep e).timerStart = s.now ∧
      (t.ep e).phyBitQueue = (s.ep e).phyBitQueue ++ serialize [0x7B#8, 0x06#8, 0x7D#8] ∧
      ((s.ep e).seqSend = (s.ep (peer e)).seqRecv →
        (t.ep (peer e)).appBuffer = (s.ep (peer e)).appBuffer ++ (s.ep e).sendBuffer.take 8 ∧
        (t.ep (peer e)).seqRecv = !(s.ep (peer e)).seqRecv) ∧
      ((s.ep e).seqSend ≠ (s.ep (peer e)).seqRecv →
        (t.ep (peer e)).appBuffer = (s.ep (peer e)).appBuffer ∧
        (t.ep (peer e)).seqRecv = (s.ep (peer e)).seqRecv)

/-- An iteration with nothing to do passes through the five operations of the loop and changes nothing, and so does R86's
`ITERATE`. -/
def Obligations.AnIdleIterationChangesNothing : Prop :=
  ∀ (s : State) (e : EndpointId), (s.ep e).phase = .top → (s.ep e).fault = none → (s.ep e).stopReq = false →
    (s.ep e).sendBuffer = [] → (s.ep e).phyBitQueue = [] → (s.ep e).bitBuffer.length ≤ 7 →
    (s.ep e).receiveBuffer = [] → (s.ep e).awaitingAck = false → (s.ep e).scan = Scan.idle →
    runOps [.chkStop e, .sendNext e, .drain e, .process e, .chkTimeout e] s = .next s ∧ iterate e s = .next s

/-! ### Whole-machine rules -/

/-- Nothing is shared but the wire and the clock: an operation of one endpoint leaves the other's record alone, except
that `TX_BIT` and `transmit` may put one bit into its queue, or raise `BufferOverflow` there if the queue is full; the
clock and the pure functions touch no endpoint. And in the closed system no step brings an endpoint a bit while its peer is
not in `P_TX` (R57). -/
def Obligations.OnlyTheWireReachesThePeer : Prop :=
  (∀ (i : Instr) (s t : State), exec i s = .next t →
    (∀ e, actor i = some e → usesMedium i = false → t.ep (peer e) = s.ep (peer e)) ∧
    (∀ e, actor i = some e → usesMedium i = true →
      t.ep (peer e) = s.ep (peer e) ∨
      (∃ b, t.ep (peer e) = { s.ep (peer e) with phyBitQueue := (s.ep (peer e)).phyBitQueue ++ [b] }) ∨
      t.ep (peer e) = { s.ep (peer e) with fault := some .bufferOverflow }) ∧
    (actor i = none → ∀ e, t.ep e = s.ep e)) ∧
  (∀ (s t : State) (e : EndpointId), s.cfg.wiring = .closed → step s = .next t → (s.ep (peer e)).phase ≠ .tx →
    (t.ep e).phyBitQueue = (s.ep e).phyBitQueue ∨ (t.ep e).phyBitQueue = [])

/-- The clock is moved by `TIME_ADV` alone and, with unbounded time, never decreases; no operation changes the
parameters, the registration set or the schedule. -/
def Obligations.OnlyTimeAdvMovesTheClock : Prop :=
  ∀ (i : Instr) (s t : State), exec i s = .next t →
    ((∀ d, i ≠ .timeAdv d) → t.now = s.now) ∧ (s.cfg.timeWidth = none → s.now ≤ t.now) ∧
    t.cfg = s.cfg ∧ t.registered = s.registered ∧ t.script = s.script ∧ t.tick = s.tick

/-- A fault and the stop request stay set until that endpoint's `RESET`. -/
def Obligations.FaultAndStopRequestAreSticky : Prop :=
  ∀ (i : Instr) (s t : State) (e : EndpointId), exec i s = .next t → i ≠ .reset e →
    ((s.ep e).fault ≠ none → (t.ep e).fault ≠ none) ∧ ((s.ep e).stopReq = true → (t.ep e).stopReq = true)

/-- The queues are first-in first-out: but for `RESET`, an operation appends at a queue's tail or removes from its head, and
what stays in `bitBuffer` is the tail of the bits waiting before. -/
def Obligations.QueuesAreFirstInFirstOut : Prop :=
  ∀ (i : Instr) (s t : State) (e : EndpointId), exec i s = .next t → i ≠ .reset e →
    ((s.ep e).sendBuffer <+: (t.ep e).sendBuffer ∨ (t.ep e).sendBuffer <:+ (s.ep e).sendBuffer) ∧
    ((s.ep e).phyBitQueue <+: (t.ep e).phyBitQueue ∨ (t.ep e).phyBitQueue <:+ (s.ep e).phyBitQueue) ∧
    ((s.ep e).receiveBuffer <+: (t.ep e).receiveBuffer ∨ (t.ep e).receiveBuffer <:+ (s.ep e).receiveBuffer) ∧
    ((s.ep e).appBuffer <+: (t.ep e).appBuffer ∨ (t.ep e).appBuffer <:+ (s.ep e).appBuffer) ∧
    ((t.ep e).bitBuffer = (s.ep e).bitBuffer ∨
      (t.ep e).bitBuffer <:+ (s.ep e).bitBuffer ++ (s.ep e).phyBitQueue)

/-- The trace is append-only but for `RESET`. -/
def Obligations.TheTraceIsAppendOnly : Prop :=
  ∀ (i : Instr) (s t : State) (e : EndpointId), exec i s = .next t → i ≠ .reset e →
    (s.ep e).trace <+: (t.ep e).trace

/-- `seqSend` changes only by an operation that ends observing an ACK, which leaves the sender idle; `seqRecv` changes only
by one that ends in a delivery, which appends the delivered bytes to `appBuffer`, after the last bit of the ACK has gone
(R56). -/
def Obligations.SequenceBitsFlipOnlyOnAcksAndDeliveries : Prop :=
  ∀ (i : Instr) (s t : State) (e : EndpointId), exec i s = .next t → i ≠ .reset e →
    ((t.ep e).seqSend ≠ (s.ep e).seqSend →
      (t.ep e).trace.getLast? = some .ackSeen ∧ (t.ep e).awaitingAck = false ∧ (t.ep e).lastFrame = none ∧
      (t.ep e).timerStart = 0) ∧
    ((t.ep e).seqRecv ≠ (s.ep e).seqRecv →
      ∃ data, (t.ep e).appBuffer = (s.ep e).appBuffer ++ data ∧ (t.ep e).trace.getLast? = some (.deliver data) ∧
        (s.ep e).phase = .tx ∧ (s.ep e).txCont = .cAck ∧ (s.ep e).txShift = [])

/-! ### Finite time -/

/-- With a finite `TIME_WIDTH = w` the model takes the hazard R253 that R104 leaves open (the model's choice, log 14): the
clock wraps modulo `2^w`, and the timer sees the ticks `k` since its start modulo `2^w`. -/
def Obligations.AFiniteTimeWidthWraps : Prop :=
  ∀ (s : State) (w : Nat), s.cfg.timeWidth = some w →
    (∀ d : Nat, exec (.timeAdv d) s = .next { s with now := (s.now + d) % 2 ^ w }) ∧
    (∀ (e : EndpointId) (k : Nat), (s.ep e).phase = .timeout → (s.ep e).fault = none → (s.ep e).awaitingAck = true →
      (s.ep e).timerStart ≠ 0 → (s.ep e).timerStart < 2 ^ w → k < 2 ^ w → s.now = ((s.ep e).timerStart + k) % 2 ^ w →
      (k ≤ 100 * s.cfg.ticksPerMs → exec (.chkTimeout e) s = .next (s.setEp e { s.ep e with phase := .top })) ∧
      (∀ f, k > 100 * s.cfg.ticksPerMs → (s.ep e).lastFrame = some f →
        exec (.chkTimeout e) s = .next (s.setEp e { s.ep e with
          trace := (s.ep e).trace ++ [.retransmit]
          txFrame := f
          txShift := serialize f
          txCont := .cRetx
          phase := .tx })))
end

