-- ==== Sys2Proof/Laws/Framing.lean ====
section
/-! SUPPORT. The small lemmas of the framing functions: what each does on an append, a cons and an empty list, and what
the deframer's walk does over stuffed bytes. -/

namespace Sys2Proof.Machine

/-! ### Bits and bytes -/

@[simp] theorem zext8_inj (a b : Bit) : zext8 a = zext8 b ↔ a = b := by cases a <;> cases b <;> decide

@[simp] theorem zext8_eq_true_iff (q : Bit) : (zext8 q = zext8 true) ↔ q = true := zext8_inj q true

@[simp] theorem length_bitsMSB (b : Byte) : (bitsMSB b).length = 8 := rfl

theorem byteMSB_bitsMSB (b : Byte) : byteMSB (bitsMSB b) = b := by revert b; decide

theorem bitsMSB_byteMSB (b7 b6 b5 b4 b3 b2 b1 b0 : Bit) :
    bitsMSB (byteMSB [b7, b6, b5, b4, b3, b2, b1, b0]) = [b7, b6, b5, b4, b3, b2, b1, b0] := by
  revert b7 b6 b5 b4 b3 b2 b1 b0; decide

/-! ### `serialize` and the byte assembler -/

@[simp] theorem serialize_nil : serialize [] = [] := rfl

theorem serialize_cons (b : Byte) (f : List Byte) : serialize (b :: f) = bitsMSB b ++ serialize f := rfl

theorem serialize_append (f g : List Byte) : serialize (f ++ g) = serialize f ++ serialize g := by
  simp [serialize]

@[simp] theorem length_serialize (f : List Byte) : (serialize f).length = 8 * f.length := by
  induction f with
  | nil => rfl
  | cons b f ih => rw [serialize_cons]; simp [ih]; omega

theorem regroup_short (l : List Bit) (h : l.length < 8) : regroup l = ([], l) := by
  unfold regroup; split
  · simp at h; omega
  · rfl

theorem regroup_bitsMSB (b : Byte) (l : List Bit) :
    regroup (bitsMSB b ++ l) = (b :: (regroup l).1, (regroup l).2) := by
  show regroup (_ :: _ :: _ :: _ :: _ :: _ :: _ :: _ :: l) = _
  rw [regroup]
  exact congrArg (fun c => (c :: (regroup l).1, (regroup l).2)) (byteMSB_bitsMSB b)

/-- What the byte assembler does, once over: it splits the bits into whole bytes and fewer than eight left over. -/
theorem regroup_spec (l : List Bit) :
    l = serialize (regroup l).1 ++ (regroup l).2 ∧ (regroup l).2.length < 8 ∧
      (regroup l).1.length = l.length / 8 ∧ (regroup l).2.length = l.length % 8 := by
  induction l using regroup.induct with
  | case1 b7 b6 b5 b4 b3 b2 b1 b0 rest ih =>
    obtain ⟨h1, h2, h3, h4⟩ := ih
    simp only [regroup, serialize_cons, assemble, bitsMSB_byteMSB, List.length_cons]
    refine ⟨?_, h2, by omega, by omega⟩
    simp only [List.cons_append, List.nil_append]
    rw [← h1]
  | case2 l h =>
    have hl : l.length < 8 := by
      match l, h with
      | [], _ | [_], _ | [_, _], _ | [_, _, _], _ | [_, _, _, _], _ | [_, _, _, _, _], _ | [_, _, _, _, _, _], _ => simp
      | [_, _, _, _, _, _, _], _ => simp
      | a :: b :: c :: d :: e :: f :: g :: i :: r, h => exact absurd rfl (h a b c d e f g i r)
    rw [regroup_short l hl]
    simp; omega

/-! ### Parity -/

@[simp] theorem parityBit_nil : parityBit [] = false := rfl

theorem parityBit_append (l m : List Byte) : parityBit (l ++ m) = (parityBit l != parityBit m) := by
  simp only [parityBit, List.map_append, List.sum_append]
  rcases Nat.mod_two_eq_zero_or_one (l.map popcount8).sum with h | h <;>
    rcases Nat.mod_two_eq_zero_or_one (m.map popcount8).sum with h' | h' <;> simp [Nat.add_mod, h, h']

theorem parityBit_zext8 (q : Bit) : parityBit [zext8 q] = q := by cases q <;> decide

/-! ### The stuffer -/

@[simp] theorem stuffAll_nil : stuffAll [] = [] := rfl

theorem stuffAll_cons (b : Byte) (l : List Byte) : stuffAll (b :: l) = stuff b ++ stuffAll l := rfl

theorem stuffAll_append (l m : List Byte) : stuffAll (l ++ m) = stuffAll l ++ stuffAll m := by simp [stuffAll]

theorem stuff_of_tag {b : Byte} (h : isTag b = true) : stuff b = [Config.escTag, b] := by simp [stuff, h]

theorem stuff_of_not_tag {b : Byte} (h : isTag b = false) : stuff b = [b] := by simp [stuff, h]

theorem stuffAll_zext8 (q : Bit) : stuffAll [zext8 q] = [zext8 q] := by cases q <;> decide

theorem isTag_iff (b : Byte) : isTag b = true ↔ b = Config.startTag ∨ b = Config.stopTag ∨ b = Config.escTag := by
  simp [isTag, or_assoc]

/-- A built frame: the tags around the stuffed bytes; the sequence and the parity byte are never tags. -/
theorem createFrame_eq (d : List Byte) (q : Bit) :
    createFrame d q =
      [Config.startTag] ++ stuffAll (d ++ [zext8 q, parity (content d q)]) ++ [Config.stopTag] := by
  simp [createFrame, content, stuffAll_append, stuffAll_cons]

/-! ### The deframer -/

@[simp] theorem classOf_startTag : classOf Config.startTag = .start := rfl
@[simp] theorem classOf_stopTag : classOf Config.stopTag = .stop := rfl
@[simp] theorem classOf_escTag : classOf Config.escTag = .esc := rfl

theorem classOf_literal {b : Byte} (h : isTag b = false) : classOf b = .literal := by
  simp only [isTag, Bool.or_eq_false_iff, decide_eq_false_iff_not] at h
  simp [classOf, h]

theorem classOf_eq_start {b : Byte} (h : classOf b = .start) : b = Config.startTag := by
  revert b; decide

theorem classOf_eq_stop {b : Byte} (h : classOf b = .stop) : b = Config.stopTag := by
  revert b; decide

theorem classOf_eq_esc {b : Byte} (h : classOf b = .esc) : b = Config.escTag := by
  revert b; decide

theorem isTag_of_classOf_literal {b : Byte} (h : classOf b = .literal) : isTag b = false := by
  cases ht : isTag b with
  | false => rfl
  | true => rcases (isTag_iff b).1 ht with rfl | rfl | rfl <;> cases h

@[simp] theorem walk_nil (taken ex : List Byte) (log : List Event) : walk taken ex log [] = .ranOut taken log := rfl

theorem walk_stop (taken ex : List Byte) (log : List Event) (r : List Byte) :
    walk taken ex log (Config.stopTag :: r) = .closed ex r log := rfl

theorem walk_start (taken ex : List Byte) (log : List Event) (r : List Byte) :
    walk taken ex log (Config.startTag :: r) = walk [Config.startTag] [] (log ++ discarded taken) r := rfl

theorem walk_esc_last (taken ex : List Byte) (log : List Event) :
    walk taken ex log [Config.escTag] = .ranOut (taken ++ [Config.escTag]) log := rfl

theorem walk_esc (taken ex : List Byte) (log : List Event) (c : Byte) (r : List Byte) :
    walk taken ex log (Config.escTag :: c :: r) = walk (taken ++ [Config.escTag, c]) (ex ++ [c]) log r := rfl

theorem walk_literal (taken ex : List Byte) (log : List Event) {b : Byte} (r : List Byte) (h : isTag b = false) :
    walk taken ex log (b :: r) = walk (taken ++ [b]) (ex ++ [b]) log r := by
  conv_lhs => unfold walk
  rw [classOf_literal h]

/-- The walk takes a stuffed byte back as the byte itself, whatever it is. -/
theorem walk_stuff (taken ex : List Byte) (log : List Event) (b : Byte) (r : List Byte) :
    walk taken ex log (stuff b ++ r) = walk (taken ++ stuff b) (ex ++ [b]) log r := by
  cases h : isTag b with
  | true => rw [stuff_of_tag h]; exact walk_esc taken ex log b r
  | false => rw [stuff_of_not_tag h]; exact walk_literal taken ex log r h

theorem walk_stuffAll (l : List Byte) (taken ex : List Byte) (log : List Event) (r : List Byte) :
    walk taken ex log (stuffAll l ++ r) = walk (taken ++ stuffAll l) (ex ++ l) log r := by
  induction l generalizing taken ex with
  | nil => simp
  | cons b l ih => simp only [stuffAll_cons, List.append_assoc, walk_stuff, ih]; simp

@[simp] theorem discarded_nil : discarded [] = [] := rfl

theorem discarded_of_ne_nil {bs : List Byte} (h : bs ≠ []) : discarded bs = [.discard bs] := by simp [discarded, h]

theorem classify_nil (rest : List Byte) (log : List Event) :
    classify [] rest log = ⟨rest, .noFrame, log ++ [.emptyFrame]⟩ := rfl

theorem classify_one (b : Byte) (rest : List Byte) (log : List Event) :
    classify [b] rest log = ⟨rest, .frame [b], log⟩ := rfl

/-- The classification of two or more bytes, the last two named: the sequence byte and the parity byte (R161, R162). -/
theorem classify_data (d : List Byte) (q p : Byte) (rest : List Byte) (log : List Event) :
    classify (d ++ [q, p]) rest log =
      if parity (d ++ [q]) = p then ⟨rest, .frame (q :: d), log⟩ else ⟨rest, .noFrame, log ++ [.damaged (d ++ [q, p])]⟩ := by
  have h1 : (d ++ [q, p]).dropLast = d ++ [q] := by
    rw [show d ++ [q, p] = (d ++ [q]) ++ [p] by simp, List.dropLast_concat]
  have h2 : (d ++ [q, p]).getLastD 0#8 = p := by
    rw [show d ++ [q, p] = (d ++ [q]) ++ [p] by simp, List.getLastD_concat]
  unfold classify
  simp only [h1, h2, List.getLastD_concat, List.dropLast_concat]
  simp

/-- `processFrame` after garbage: the walk from the first start tag. -/
theorem processFrame_start (g r : List Byte) (h : Config.startTag ∉ g) :
    processFrame (g ++ Config.startTag :: r) =
      match walk [Config.startTag] [] (discarded g) r with
      | .ranOut kept log => ⟨kept, .noFrame, log⟩
      | .closed extracted rest log => classify extracted rest log := by
  have h' : ∀ a ∈ g, decide (a ≠ Config.startTag) = true := fun a ha => by
    simp; rintro rfl; exact h ha
  have h1 : (g ++ Config.startTag :: r).takeWhile (fun b => b ≠ Config.startTag) = g := by
    rw [List.takeWhile_append_of_pos h']; simp
  have h2 : (g ++ Config.startTag :: r).dropWhile (fun b => b ≠ Config.startTag) = Config.startTag :: r := by
    rw [List.dropWhile_append_of_pos h']; simp
  simp only [processFrame, h1, h2]
  all_goals rfl

/-- `processFrame` with no start tag anywhere. -/
theorem processFrame_garbage (g : List Byte) (h : Config.startTag ∉ g) :
    processFrame g = ⟨[], .noFrame, discarded g⟩ := by
  have h' : ∀ a ∈ g, decide (a ≠ Config.startTag) = true := fun a ha => by
    simp; rintro rfl; exact h ha
  have h1 : g.takeWhile (fun b => b ≠ Config.startTag) = g := List.takeWhile_eq_self_iff.2 h'
  have h2 : g.dropWhile (fun b => b ≠ Config.startTag) = [] := List.dropWhile_eq_nil_iff.2 h'
  simp only [processFrame, h1, h2]

end Sys2Proof.Machine
end

