-- ==== Sys2Proof/Laws/State.lean ====
section
/-! SUPPORT. The small lemmas of the record accessors and of the shared updates: one per field per update. -/

namespace Sys2Proof.Machine

@[simp] theorem peer_peer (e : EndpointId) : peer (peer e) = e := by cases e <;> rfl

@[simp] theorem peer_ne (e : EndpointId) : peer e ≠ e := by cases e <;> decide

@[simp] theorem ne_peer (e : EndpointId) : e ≠ peer e := by cases e <;> decide

theorem eq_or_eq_peer (e f : EndpointId) : f = e ∨ f = peer e := by cases e <;> cases f <;> simp [peer]

@[simp] theorem ep_setEp (s : State) (e : EndpointId) (x : Endpoint) : (s.setEp e x).ep e = x := by cases e <;> rfl

@[simp] theorem ep_peer_setEp (s : State) (e : EndpointId) (x : Endpoint) :
    (s.setEp e x).ep (peer e) = s.ep (peer e) := by cases e <;> rfl

@[simp] theorem ep_setEp_peer (s : State) (e : EndpointId) (x : Endpoint) :
    (s.setEp (peer e) x).ep e = s.ep e := by cases e <;> rfl

@[simp] theorem setEp_ep (s : State) (e : EndpointId) : s.setEp e (s.ep e) = s := by cases e <;> rfl

@[simp] theorem setEp_setEp (s : State) (e : EndpointId) (x y : Endpoint) :
    (s.setEp e x).setEp e y = s.setEp e y := by cases e <;> rfl

theorem setEp_comm (s : State) (e : EndpointId) (x y : Endpoint) :
    (s.setEp e x).setEp (peer e) y = (s.setEp (peer e) y).setEp e x := by cases e <;> rfl

@[simp] theorem setEp_now (s : State) (e : EndpointId) (x : Endpoint) : (s.setEp e x).now = s.now := by cases e <;> rfl

@[simp] theorem setEp_cfg (s : State) (e : EndpointId) (x : Endpoint) : (s.setEp e x).cfg = s.cfg := by cases e <;> rfl

@[simp] theorem setEp_registered (s : State) (e : EndpointId) (x : Endpoint) :
    (s.setEp e x).registered = s.registered := by cases e <;> rfl

@[simp] theorem setEp_result (s : State) (e : EndpointId) (x : Endpoint) : (s.setEp e x).result = s.result := by
  cases e <;> rfl

@[simp] theorem setEp_script (s : State) (e : EndpointId) (x : Endpoint) : (s.setEp e x).script = s.script := by
  cases e <;> rfl

@[simp] theorem setEp_tick (s : State) (e : EndpointId) (x : Endpoint) : (s.setEp e x).tick = s.tick := by
  cases e <;> rfl

@[simp] theorem ep_with_now (s : State) (n : Nat) (e : EndpointId) : ({ s with now := n } : State).ep e = s.ep e := by
  cases e <;> rfl

@[simp] theorem ep_with_result (s : State) (r : Result) (e : EndpointId) :
    ({ s with result := r } : State).ep e = s.ep e := by cases e <;> rfl

@[simp] theorem ep_with_script (s : State) (l : List Line) (e : EndpointId) :
    ({ s with script := l } : State).ep e = s.ep e := by cases e <;> rfl

@[simp] theorem ep_with_tick (s : State) (n : Nat) (e : EndpointId) : ({ s with tick := n } : State).ep e = s.ep e := by
  cases e <;> rfl

@[simp] theorem ep_boot (cfg : Params) (now : Nat) (e : EndpointId) :
    (State.boot cfg now).ep e = Endpoint.reset := by cases e <;> rfl

/-! ### `loadTx` -/

@[simp] theorem loadEncoder_phase (f c x) : (loadEncoder f c x).phase = .tx := rfl
@[simp] theorem loadEncoder_txFrame (f c x) : (loadEncoder f c x).txFrame = f := rfl
@[simp] theorem loadEncoder_txShift (f c x) : (loadEncoder f c x).txShift = serialize f := rfl
@[simp] theorem loadEncoder_txCont (f c x) : (loadEncoder f c x).txCont = contOf c := rfl
@[simp] theorem loadEncoder_rxFrame (f c x) : (loadEncoder f c x).rxFrame = x.rxFrame := rfl
@[simp] theorem loadEncoder_sendBuffer (f c x) : (loadEncoder f c x).sendBuffer = x.sendBuffer := rfl
@[simp] theorem loadEncoder_phyBitQueue (f c x) : (loadEncoder f c x).phyBitQueue = x.phyBitQueue := rfl
@[simp] theorem loadEncoder_bitBuffer (f c x) : (loadEncoder f c x).bitBuffer = x.bitBuffer := rfl
@[simp] theorem loadEncoder_receiveBuffer (f c x) : (loadEncoder f c x).receiveBuffer = x.receiveBuffer := rfl
@[simp] theorem loadEncoder_appBuffer (f c x) : (loadEncoder f c x).appBuffer = x.appBuffer := rfl
@[simp] theorem loadEncoder_lastFrame (f c x) : (loadEncoder f c x).lastFrame = x.lastFrame := rfl
@[simp] theorem loadEncoder_seqSend (f c x) : (loadEncoder f c x).seqSend = x.seqSend := rfl
@[simp] theorem loadEncoder_seqRecv (f c x) : (loadEncoder f c x).seqRecv = x.seqRecv := rfl
@[simp] theorem loadEncoder_awaitingAck (f c x) : (loadEncoder f c x).awaitingAck = x.awaitingAck := rfl
@[simp] theorem loadEncoder_timerStart (f c x) : (loadEncoder f c x).timerStart = x.timerStart := rfl
@[simp] theorem loadEncoder_stopReq (f c x) : (loadEncoder f c x).stopReq = x.stopReq := rfl
@[simp] theorem loadEncoder_fault (f c x) : (loadEncoder f c x).fault = x.fault := rfl
@[simp] theorem loadEncoder_trace (f c x) : (loadEncoder f c x).trace = x.trace := rfl
@[simp] theorem loadEncoder_scan (f c x) : (loadEncoder f c x).scan = x.scan := rfl
@[simp] theorem loadEncoder_phyTx (f c x) : (loadEncoder f c x).phyTx = x.phyTx := rfl

/-! ### `finishFrameSend` -/

@[simp] theorem armSender_awaitingAck (n f x) : (armSender n f x).awaitingAck = true := rfl
@[simp] theorem armSender_lastFrame (n f x) : (armSender n f x).lastFrame = some f := rfl
@[simp] theorem armSender_timerStart (n f x) : (armSender n f x).timerStart = n := rfl
@[simp] theorem armSender_phase (n f x) : (armSender n f x).phase = x.phase := rfl
@[simp] theorem armSender_seqSend (n f x) : (armSender n f x).seqSend = x.seqSend := rfl
@[simp] theorem armSender_seqRecv (n f x) : (armSender n f x).seqRecv = x.seqRecv := rfl
@[simp] theorem armSender_fault (n f x) : (armSender n f x).fault = x.fault := rfl
@[simp] theorem armSender_trace (n f x) : (armSender n f x).trace = x.trace := rfl
@[simp] theorem armSender_scan (n f x) : (armSender n f x).scan = x.scan := rfl
@[simp] theorem armSender_bitBuffer (n f x) : (armSender n f x).bitBuffer = x.bitBuffer := rfl
@[simp] theorem armSender_txFrame (n f x) : (armSender n f x).txFrame = x.txFrame := rfl
@[simp] theorem armSender_txShift (n f x) : (armSender n f x).txShift = x.txShift := rfl
@[simp] theorem armSender_txCont (n f x) : (armSender n f x).txCont = x.txCont := rfl
@[simp] theorem armSender_rxFrame (n f x) : (armSender n f x).rxFrame = x.rxFrame := rfl
@[simp] theorem armSender_sendBuffer (n f x) : (armSender n f x).sendBuffer = x.sendBuffer := rfl
@[simp] theorem armSender_receiveBuffer (n f x) : (armSender n f x).receiveBuffer = x.receiveBuffer := rfl
@[simp] theorem armSender_appBuffer (n f x) : (armSender n f x).appBuffer = x.appBuffer := rfl

/-! ### `ackBranch` -/

@[simp] theorem observeAck_lastFrame (x) : (observeAck x).lastFrame = none := rfl
@[simp] theorem observeAck_awaitingAck (x) : (observeAck x).awaitingAck = false := rfl
@[simp] theorem observeAck_seqSend (x) : (observeAck x).seqSend = flip x.seqSend := rfl
@[simp] theorem observeAck_timerStart (x) : (observeAck x).timerStart = 0 := rfl
@[simp] theorem observeAck_trace (x) : (observeAck x).trace = x.trace ++ [.ackSeen] := rfl
@[simp] theorem observeAck_phase (x) : (observeAck x).phase = .timeout := rfl
@[simp] theorem observeAck_seqRecv (x) : (observeAck x).seqRecv = x.seqRecv := rfl
@[simp] theorem observeAck_fault (x) : (observeAck x).fault = x.fault := rfl
@[simp] theorem observeAck_scan (x) : (observeAck x).scan = x.scan := rfl
@[simp] theorem observeAck_bitBuffer (x) : (observeAck x).bitBuffer = x.bitBuffer := rfl
@[simp] theorem observeAck_txFrame (x) : (observeAck x).txFrame = x.txFrame := rfl
@[simp] theorem observeAck_txShift (x) : (observeAck x).txShift = x.txShift := rfl
@[simp] theorem observeAck_txCont (x) : (observeAck x).txCont = x.txCont := rfl
@[simp] theorem observeAck_rxFrame (x) : (observeAck x).rxFrame = x.rxFrame := rfl
@[simp] theorem observeAck_sendBuffer (x) : (observeAck x).sendBuffer = x.sendBuffer := rfl
@[simp] theorem observeAck_receiveBuffer (x) : (observeAck x).receiveBuffer = x.receiveBuffer := rfl
@[simp] theorem observeAck_appBuffer (x) : (observeAck x).appBuffer = x.appBuffer := rfl

/-! ### The end of a transmission, and logging -/

@[simp] theorem clearTx_phase (p x) : (clearTx p x).phase = p := rfl
@[simp] theorem clearTx_txCont (p x) : (clearTx p x).txCont = .cNone := rfl
@[simp] theorem clearTx_txFrame (p x) : (clearTx p x).txFrame = [] := rfl
@[simp] theorem clearTx_rxFrame (p x) : (clearTx p x).rxFrame = [] := rfl
@[simp] theorem clearTx_txShift (p x) : (clearTx p x).txShift = x.txShift := rfl
@[simp] theorem clearTx_lastFrame (p x) : (clearTx p x).lastFrame = x.lastFrame := rfl
@[simp] theorem clearTx_awaitingAck (p x) : (clearTx p x).awaitingAck = x.awaitingAck := rfl
@[simp] theorem clearTx_timerStart (p x) : (clearTx p x).timerStart = x.timerStart := rfl
@[simp] theorem clearTx_seqSend (p x) : (clearTx p x).seqSend = x.seqSend := rfl
@[simp] theorem clearTx_seqRecv (p x) : (clearTx p x).seqRecv = x.seqRecv := rfl
@[simp] theorem clearTx_fault (p x) : (clearTx p x).fault = x.fault := rfl
@[simp] theorem clearTx_trace (p x) : (clearTx p x).trace = x.trace := rfl
@[simp] theorem clearTx_scan (p x) : (clearTx p x).scan = x.scan := rfl
@[simp] theorem clearTx_bitBuffer (p x) : (clearTx p x).bitBuffer = x.bitBuffer := rfl
@[simp] theorem clearTx_appBuffer (p x) : (clearTx p x).appBuffer = x.appBuffer := rfl

@[simp] theorem logs_trace (x : Endpoint) (evs) : (x.logs evs).trace = x.trace ++ evs := rfl
@[simp] theorem logs_phase (x : Endpoint) (evs) : (x.logs evs).phase = x.phase := rfl
@[simp] theorem logs_lastFrame (x : Endpoint) (evs) : (x.logs evs).lastFrame = x.lastFrame := rfl
@[simp] theorem logs_awaitingAck (x : Endpoint) (evs) : (x.logs evs).awaitingAck = x.awaitingAck := rfl
@[simp] theorem logs_timerStart (x : Endpoint) (evs) : (x.logs evs).timerStart = x.timerStart := rfl
@[simp] theorem logs_seqSend (x : Endpoint) (evs) : (x.logs evs).seqSend = x.seqSend := rfl
@[simp] theorem logs_seqRecv (x : Endpoint) (evs) : (x.logs evs).seqRecv = x.seqRecv := rfl
@[simp] theorem logs_fault (x : Endpoint) (evs) : (x.logs evs).fault = x.fault := rfl
@[simp] theorem logs_scan (x : Endpoint) (evs) : (x.logs evs).scan = x.scan := rfl
@[simp] theorem logs_bitBuffer (x : Endpoint) (evs) : (x.logs evs).bitBuffer = x.bitBuffer := rfl
@[simp] theorem logs_txFrame (x : Endpoint) (evs) : (x.logs evs).txFrame = x.txFrame := rfl
@[simp] theorem logs_txShift (x : Endpoint) (evs) : (x.logs evs).txShift = x.txShift := rfl
@[simp] theorem logs_txCont (x : Endpoint) (evs) : (x.logs evs).txCont = x.txCont := rfl
@[simp] theorem logs_rxFrame (x : Endpoint) (evs) : (x.logs evs).rxFrame = x.rxFrame := rfl
@[simp] theorem logs_appBuffer (x : Endpoint) (evs) : (x.logs evs).appBuffer = x.appBuffer := rfl

end Sys2Proof.Machine
end

