-- ==== Sys2Proof/Laws/Ops.lean ====
section
/-! SUPPORT. For each shared operation of Machine/Ops.lean, one lemma that says everything it can do. -/

namespace Sys2Proof.Machine

/-! ### Capacity -/

@[simp] theorem fits_none {α : Type} (q new : List α) : fits none q new = true := rfl

@[simp] theorem fits_nil {α : Type} (depth : Option Nat) (q : List α) : fits depth q [] = true := by cases depth <;> rfl

/-- What `fits` decides: nothing to push, or room for it. -/
theorem fits_iff {α : Type} (depth : Option Nat) (q new : List α) :
    fits depth q new = true ↔ new = [] ∨ ∀ n, depth = some n → q.length + new.length ≤ n := by
  cases depth <;> simp [fits]

/-! ### Carrying an endpoint's operation to the system -/

theorem perform_done {e : EndpointId} {s : State} {act : Endpoint → Act} {x : Endpoint}
    (h : act (s.ep e) = .done x) : perform e s act = .next (s.setEp e x) := by simp [perform, h]

theorem perform_raised {e : EndpointId} {s : State} {act : Endpoint → Act} {k : ErrorKind}
    (h : act (s.ep e) = .raised k) : perform e s act = .next (raiseFatal e k s) := by simp [perform, h]

theorem perform_stuck {e : EndpointId} {s : State} {act : Endpoint → Act} {f : Fault}
    (h : act (s.ep e) = .stuck f) : perform e s act = .fault f := by simp [perform, h]

/-- Everything `perform` can do when it goes on: only `e`'s record changes, to the record its operation gave, or to the
old one with a fatal fault raised. -/
theorem perform_next {e : EndpointId} {s t : State} {act : Endpoint → Act} (h : perform e s act = .next t) :
    (∃ x, act (s.ep e) = .done x ∧ t = s.setEp e x) ∨
      (∃ k, act (s.ep e) = .raised k ∧ t = s.setEp e { s.ep e with fault := some k }) := by
  unfold perform at h
  split at h
  · next x hx => exact .inl ⟨x, hx, by cases h; rfl⟩
  · next k hk => exact .inr ⟨k, hk, by cases h; rfl⟩
  · cases h

/-- Everything `raiseFatal` does (60_exceptions.md R210). -/
theorem raiseFatal_eq (e : EndpointId) (k : ErrorKind) (s : State) :
    raiseFatal e k s = s.setEp e { s.ep e with fault := some k } := rfl

/-- Everything `returning` does. -/
theorem returning_next {r : Result} {s t : State} : returning r s = .next t ↔ t = { s with result := r } := by
  simp [returning, eq_comm]

/-! ### The PAR machine -/

/-- Everything a dispatch can do: it observes an ACK, or loads one. -/
theorem dispatch_cases (f : List Byte) (x : Endpoint) :
    (f = [Config.ackTag] ∧ dispatch f x = observeAck x) ∨ (f ≠ [Config.ackTag] ∧ dispatch f x = acknowledge f x) := by
  by_cases h : f = [Config.ackTag] <;> simp [dispatch, h]

@[simp] theorem acknowledge_rxFrame (f x) : (acknowledge f x).rxFrame = f := rfl
@[simp] theorem acknowledge_txFrame (f x) : (acknowledge f x).txFrame = ackFrame := rfl
@[simp] theorem acknowledge_txShift (f x) : (acknowledge f x).txShift = serialize ackFrame := rfl
@[simp] theorem acknowledge_txCont (f x) : (acknowledge f x).txCont = .cAck := rfl
@[simp] theorem acknowledge_phase (f x) : (acknowledge f x).phase = .tx := rfl
@[simp] theorem acknowledge_sendBuffer (f x) : (acknowledge f x).sendBuffer = x.sendBuffer := rfl
@[simp] theorem acknowledge_phyBitQueue (f x) : (acknowledge f x).phyBitQueue = x.phyBitQueue := rfl
@[simp] theorem acknowledge_bitBuffer (f x) : (acknowledge f x).bitBuffer = x.bitBuffer := rfl
@[simp] theorem acknowledge_receiveBuffer (f x) : (acknowledge f x).receiveBuffer = x.receiveBuffer := rfl
@[simp] theorem acknowledge_appBuffer (f x) : (acknowledge f x).appBuffer = x.appBuffer := rfl
@[simp] theorem acknowledge_lastFrame (f x) : (acknowledge f x).lastFrame = x.lastFrame := rfl
@[simp] theorem acknowledge_seqSend (f x) : (acknowledge f x).seqSend = x.seqSend := rfl
@[simp] theorem acknowledge_seqRecv (f x) : (acknowledge f x).seqRecv = x.seqRecv := rfl
@[simp] theorem acknowledge_awaitingAck (f x) : (acknowledge f x).awaitingAck = x.awaitingAck := rfl
@[simp] theorem acknowledge_timerStart (f x) : (acknowledge f x).timerStart = x.timerStart := rfl
@[simp] theorem acknowledge_stopReq (f x) : (acknowledge f x).stopReq = x.stopReq := rfl
@[simp] theorem acknowledge_fault (f x) : (acknowledge f x).fault = x.fault := rfl
@[simp] theorem acknowledge_trace (f x) : (acknowledge f x).trace = x.trace := rfl
@[simp] theorem acknowledge_scan (f x) : (acknowledge f x).scan = x.scan := rfl

/-- Everything `ackBranch` can do as a step of its own. -/
theorem takeAck_cases (x : Endpoint) :
    (x.canDispatch ∧ takeAck x = .done (observeAck x)) ∨ (¬ x.canDispatch ∧ takeAck x = .stuck .notEnabled) := by
  by_cases h : x.canDispatch
  · exact .inl ⟨h, if_pos h⟩
  · exact .inr ⟨h, if_neg h⟩

/-- Everything `dataBranch` can do as a step of its own. -/
theorem takeData_cases (f : List Byte) (x : Endpoint) :
    (x.canLoadTx ∧ f ≠ [] ∧ takeData f x = .done (acknowledge f x)) ∨
    (x.canLoadTx ∧ f = [] ∧ takeData f x = .stuck .operandOutsideDomain) ∨
    (¬ x.canLoadTx ∧ takeData f x = .stuck .notEnabled) := by
  by_cases h : x.canLoadTx
  · by_cases hf : f = []
    · exact .inr (.inl ⟨h, hf, by rw [takeData, if_pos h, if_pos hf]⟩)
    · exact .inl ⟨h, hf, by rw [takeData, if_pos h, if_neg hf]⟩
  · exact .inr (.inr ⟨h, if_neg h⟩)

/-- An encoder that may be loaded is also free for an ACK to be observed. -/
theorem canDispatch_of_canLoadTx {x : Endpoint} (h : x.canLoadTx) : x.canDispatch := by
  obtain ⟨h | h | h, hf, hs⟩ := h <;> simp [h, hf, hs]

/-- Everything the delivery half can do when it gives a record: a delivery, or a duplicate. -/
theorem deliverSequence_done {cfg : Params} {f : List Byte} {x y : Endpoint} (h : deliverSequence cfg f x = .done y) :
    (∃ data, f = zext8 x.seqRecv :: data ∧ fits cfg.appbufDepth x.appBuffer data = true ∧
      y = { x with
        seqRecv := flip x.seqRecv, appBuffer := x.appBuffer ++ data, trace := x.trace ++ [.deliver data] }) ∨
    (∃ r data, f = r :: data ∧ r ≠ zext8 x.seqRecv ∧ y = x.logs [.duplicate r]) := by
  unfold deliverSequence at h
  split at h
  · cases h
  · next r data =>
    split at h
    · next hr =>
      split at h
      · next hf => cases h; exact .inl ⟨data, by rw [hr], hf, rfl⟩
      · cases h
    · next hr => cases h; exact .inr ⟨r, data, rfl, hr, rfl⟩

/-- When the delivery half raises: the bytes do not fit, and the fault is `BufferOverflow`. -/
theorem deliverSequence_raised {cfg : Params} {f : List Byte} {x : Endpoint} {k : ErrorKind}
    (h : deliverSequence cfg f x = .raised k) :
    k = .bufferOverflow ∧ ∃ data, f = zext8 x.seqRecv :: data ∧ fits cfg.appbufDepth x.appBuffer data = false := by
  unfold deliverSequence at h
  split at h
  · cases h
  · next r data =>
    split at h
    · next hr =>
      split at h
      · cases h
      · next hf => cases h; exact ⟨rfl, data, by rw [hr], by simpa using hf⟩
    · cases h

/-- The delivery half is stuck on the empty sequence only. -/
theorem deliverSequence_stuck {cfg : Params} {f : List Byte} {x : Endpoint} {k : Fault} :
    deliverSequence cfg f x = .stuck k ↔ f = [] ∧ k = .operandOutsideDomain := by
  unfold deliverSequence
  split
  · simp [eq_comm]
  · split
    · split <;> simp
    · simp

/-- Everything `PROCESS` can do with the result of a `processFrame` call. -/
theorem handleParsed_cases (p : Parsed) (x : Endpoint) :
    (p.res = .noFrame ∧ handleParsed p x = { x with
      receiveBuffer := p.rest, trace := x.trace ++ p.log, scan := Scan.idle, phase := .timeout }) ∨
    (∃ f, p.res = .frame f ∧ handleParsed p x = dispatch f { x with
      receiveBuffer := p.rest, trace := x.trace ++ p.log, scan := Scan.idle }) := by
  cases h : p.res with
  | noFrame => exact .inl ⟨rfl, by simp [handleParsed, h]⟩
  | frame f => exact .inr ⟨f, rfl, by simp [handleParsed, h]⟩

/-! ### The medium -/

/-- Everything a push into the bit queue can do. -/
theorem receiveBit_cases (cfg : Params) (b : Bit) (x : Endpoint) :
    (fits cfg.phyqDepth x.phyBitQueue [b] = true ∧
      receiveBit cfg b x = .done { x with phyBitQueue := x.phyBitQueue ++ [b] }) ∨
    (fits cfg.phyqDepth x.phyBitQueue [b] = false ∧ receiveBit cfg b x = .raised .bufferOverflow) := by
  cases h : fits cfg.phyqDepth x.phyBitQueue [b] <;> simp [receiveBit, h]

/-- Everything a transmission of one bit can do: the bit reaches the registered peer, or goes out to nobody, or a fatal
error is raised at the peer or at the sender. -/
theorem transmitFrom_cases (e : EndpointId) (b draw : Bit) (sent : Endpoint) (s : State) :
    (e ∈ s.registered ∧ peer e ∈ s.registered ∧
      transmitFrom e b draw sent s = (s.setEp e sent).setEp (peer e) { s.ep (peer e) with
        phyBitQueue := (s.ep (peer e)).phyBitQueue ++ [deliverBit s.cfg.medium b draw] }) ∨
    (e ∈ s.registered ∧ peer e ∈ s.registered ∧
      transmitFrom e b draw sent s = s.setEp (peer e) { s.ep (peer e) with fault := some .bufferOverflow }) ∨
    (e ∈ s.registered ∧ peer e ∉ s.registered ∧ transmitFrom e b draw sent s = s.setEp e sent) ∨
    (e ∉ s.registered ∧ transmitFrom e b draw sent s = s.setEp e { s.ep e with fault := some .unregisteredSender }) := by
  by_cases h : e ∈ s.registered
  · by_cases h' : peer e ∈ s.registered
    · rcases receiveBit_cases s.cfg (deliverBit s.cfg.medium b draw) (s.ep (peer e)) with ⟨-, hr⟩ | ⟨-, hr⟩
      · exact .inl ⟨h, h', by simp [transmitFrom, h, h', hr]⟩
      · exact .inr (.inl ⟨h, h', by simp [transmitFrom, h, h', hr, raiseFatal]⟩)
    · exact .inr (.inr (.inl ⟨h, h', by simp [transmitFrom, h, h']⟩))
  · exact .inr (.inr (.inr ⟨h, by simp [transmitFrom, h, raiseFatal]⟩))

/-! ### The deframer's byte codes -/

/-- Everything the top of `processFrame`'s loop can do. -/
theorem continueScan_cases (x : Endpoint) :
    (x.scan.pos < x.receiveBuffer.length ∧ continueScan x = x) ∨
    (x.receiveBuffer.length ≤ x.scan.pos ∧ x.scan.mode = .hunt ∧ continueScan x = { x with
      receiveBuffer := [], trace := x.trace ++ discarded x.receiveBuffer, scan := Scan.idle, phase := .timeout }) ∨
    (x.receiveBuffer.length ≤ x.scan.pos ∧ x.scan.mode ≠ .hunt ∧
      continueScan x = { x with scan := Scan.idle, phase := .timeout }) := by
  by_cases h : x.scan.pos < x.receiveBuffer.length
  · exact .inl ⟨h, by simp [continueScan, h]⟩
  · refine .inr ?_
    have h' : x.receiveBuffer.length ≤ x.scan.pos := by omega
    cases hm : x.scan.mode <;> simp [continueScan, h, h', hm, handleParsed]

/-- Everything a restart of the extraction does, before the loop goes on (44_destuff_processframe.md R151, R156). -/
theorem restartScan_eq (x : Endpoint) :
    restartScan x = continueScan { x with
      receiveBuffer := x.receiveBuffer.drop x.scan.pos
      trace := x.trace ++ discarded (x.receiveBuffer.take x.scan.pos)
      scan := ⟨.inFrame, 1, []⟩ } := rfl

/-- Everything the taking of a content byte does, before the loop goes on (44_destuff_processframe.md R154, R157). -/
theorem takeContent_eq (n : Nat) (b : Byte) (x : Endpoint) :
    takeContent n b x = continueScan { x with scan := ⟨.inFrame, x.scan.pos + n, x.scan.extracted ++ [b]⟩ } := rfl

/-! ### The frame codes and the end of an ACK -/

/-- Everything a frame code can do: it handles what the deframer returns for the frame, whose bytes leave the head of the
receive buffer, or it is not enabled. -/
theorem consumeFrame_cases (f : List Byte) (res : ParseResult) (evs : List Event) (x : Endpoint) :
    (x.frameAtHead f ∧ consumeFrame f res evs x = .done (handleParsed ⟨x.receiveBuffer.drop f.length, res, evs⟩ x)) ∨
    (¬ x.frameAtHead f ∧ consumeFrame f res evs x = .stuck .notEnabled) := by
  by_cases h : x.frameAtHead f
  · exact .inl ⟨h, if_pos h⟩
  · exact .inr ⟨h, if_neg h⟩

/-- Everything the end of an ACK can do when it gives a record. -/
theorem finishAck_done {cfg : Params} {x y : Endpoint} (h : finishAck cfg x = .done y) :
    ∃ z, deliverSequence cfg x.rxFrame (x.logs [.frameSent .ack x.txFrame]) = .done z ∧ y = clearTx .timeout z := by
  unfold finishAck at h
  split at h
  · next z hz => exact ⟨z, hz, by cases h; rfl⟩
  · cases h
  · cases h

/-! ### The fetch -/

/-- Everything the fetch of an operation can do: it runs the operation, or refuses it by one of two names. -/
theorem admitLine_cases (i : Instr) (s : State) :
    (i.wf = true ∧ isFreeStep s.cfg i = true ∧ admitLine i s = .run i s) ∨
    (i.wf = false ∧ admitLine i s = .refused .illFormedLine) ∨
    (i.wf = true ∧ isFreeStep s.cfg i = false ∧ admitLine i s = .refused .notAFreeStep) := by
  cases hw : i.wf <;> cases hf : isFreeStep s.cfg i <;> simp [admitLine, hw, hf]

/-- Only `PHY_RX` and `transmit` in the closed system are no free steps (60_exceptions.md R223, R215). -/
theorem isFreeStep_iff (cfg : Params) (i : Instr) :
    isFreeStep cfg i = true ↔ cfg.wiring = .openPort ∨ (∀ e b, i ≠ .phyRx e b) ∧ (∀ e b d, i ≠ .transmit e b d) := by
  cases i <;> simp [isFreeStep]

end Sys2Proof.Machine
end

