-- ==== Sys2Proof/Laws/PerInstr.lean ====
section
/-! SUPPORT. The per-instruction family `CodedExactlyWhenPlaced`: an operation has wire bytes exactly if it has a
position on the wire; the `op` rows have neither (30_encoding.md R73). One lemma per constructor. -/

namespace Sys2Proof.Laws.CodedExactlyWhenPlaced

open Sys2Proof.Machine

/-- The `op` rows, and only they, have no encoding (30_encoding.md R73). -/
def Statement (i : Instr) : Prop := positionOf i = none ↔ encode i = []

theorem startHunt (e : EndpointId) : Statement (.startHunt e) := by simp [Statement, positionOf, encode]
theorem garbageHunt (e : EndpointId) (b : Byte) : Statement (.garbageHunt e b) := by simp [Statement, positionOf, encode]
theorem start (e : EndpointId) : Statement (.start e) := by simp [Statement, positionOf, encode]
theorem stop (e : EndpointId) : Statement (.stop e) := by simp [Statement, positionOf, encode]
theorem esc (e : EndpointId) : Statement (.esc e) := by simp [Statement, positionOf, encode]
theorem literal (e : EndpointId) (b : Byte) : Statement (.literal e b) := by simp [Statement, positionOf, encode]
theorem literalEscaped (e : EndpointId) (b : Byte) : Statement (.literalEscaped e b) := by simp [Statement, positionOf, encode]
theorem ackTagByte (e : EndpointId) : Statement (.ackTagByte e) := by simp [Statement, positionOf, encode]
theorem seqByte (s : Bit) : Statement (.seqByte s) := by simp [Statement, positionOf, encode]
theorem parityByte (p : Bit) : Statement (.parityByte p) := by simp [Statement, positionOf, encode]
theorem escPair (e : EndpointId) (b : Byte) : Statement (.escPair e b) := by simp [Statement, positionOf, encode]
theorem stuff7B : Statement .stuff7B := by simp [Statement, positionOf, encode]
theorem stuff7D : Statement .stuff7D := by simp [Statement, positionOf, encode]
theorem stuff5C : Statement .stuff5C := by simp [Statement, positionOf, encode]
theorem ackFrameCode (e : EndpointId) : Statement (.ackFrameCode e) := by simp [Statement, positionOf, encode]
theorem dataFrame (e : EndpointId) (d : List Byte) (s : Bit) : Statement (.dataFrame e d s) := by simp [Statement, positionOf, encode, createFrame]
theorem emptyFrame (e : EndpointId) : Statement (.emptyFrame e) := by simp [Statement, positionOf, encode]
theorem oneByteFrame (e : EndpointId) (x : Byte) : Statement (.oneByteFrame e x) := by simp [Statement, positionOf, encode]
theorem chkStop (e : EndpointId) : Statement (.chkStop e) := by simp [Statement, positionOf, encode]
theorem sendNext (e : EndpointId) : Statement (.sendNext e) := by simp [Statement, positionOf, encode]
theorem loadTx (e : EndpointId) (f : List Byte) (c : FrameKind) : Statement (.loadTx e f c) := by simp [Statement, positionOf, encode]
theorem txBit (e : EndpointId) (flip : Bit) : Statement (.txBit e flip) := by simp [Statement, positionOf, encode]
theorem txDone (e : EndpointId) : Statement (.txDone e) := by simp [Statement, positionOf, encode]
theorem drain (e : EndpointId) : Statement (.drain e) := by simp [Statement, positionOf, encode]
theorem process (e : EndpointId) : Statement (.process e) := by simp [Statement, positionOf, encode]
theorem chkTimeout (e : EndpointId) : Statement (.chkTimeout e) := by simp [Statement, positionOf, encode]
theorem appPush (e : EndpointId) (bs : List Byte) : Statement (.appPush e bs) := by simp [Statement, positionOf, encode]
theorem phyRx (e : EndpointId) (b : Bit) : Statement (.phyRx e b) := by simp [Statement, positionOf, encode]
theorem appRetrieve (e : EndpointId) : Statement (.appRetrieve e) := by simp [Statement, positionOf, encode]
theorem stopReq (e : EndpointId) : Statement (.stopReq e) := by simp [Statement, positionOf, encode]
theorem timeAdv (d : Nat) : Statement (.timeAdv d) := by simp [Statement, positionOf, encode]
theorem reset (e : EndpointId) : Statement (.reset e) := by simp [Statement, positionOf, encode]
theorem serialize (f : List Byte) : Statement (.serialize f) := by simp [Statement, positionOf, encode]
theorem assemble (l : List Bit) : Statement (.assemble l) := by simp [Statement, positionOf, encode]
theorem parity (l : List Byte) : Statement (.parity l) := by simp [Statement, positionOf, encode]
theorem stuff (b : Byte) : Statement (.stuff b) := by simp [Statement, positionOf, encode]
theorem stuffAll (l : List Byte) : Statement (.stuffAll l) := by simp [Statement, positionOf, encode]
theorem createFrame (d : List Byte) (s : Bit) : Statement (.createFrame d s) := by simp [Statement, positionOf, encode]
theorem ackFrame : Statement .ackFrame := by simp [Statement, positionOf, encode]
theorem processFrame (e : EndpointId) (rb : List Byte) : Statement (.processFrame e rb) := by simp [Statement, positionOf, encode]
theorem finishFrameSend (e : EndpointId) (f : List Byte) : Statement (.finishFrameSend e f) := by simp [Statement, positionOf, encode]
theorem finishFrameReceive (e : EndpointId) (f : List Byte) : Statement (.finishFrameReceive e f) := by simp [Statement, positionOf, encode]
theorem ackBranch (e : EndpointId) : Statement (.ackBranch e) := by simp [Statement, positionOf, encode]
theorem dataBranch (e : EndpointId) (f : List Byte) : Statement (.dataBranch e f) := by simp [Statement, positionOf, encode]
theorem deliverHalf (e : EndpointId) (f : List Byte) : Statement (.deliverHalf e f) := by simp [Statement, positionOf, encode]
theorem transmit (sender : EndpointId) (b : Bit) (flip : Bit) : Statement (.transmit sender b flip) := by simp [Statement, positionOf, encode]
theorem deliverPerfect (b : Bit) : Statement (.deliverPerfect b) := by simp [Statement, positionOf, encode]
theorem deliverLowNoise (b : Bit) (flip : Bit) : Statement (.deliverLowNoise b flip) := by simp [Statement, positionOf, encode]

end Sys2Proof.Laws.CodedExactlyWhenPlaced
end

