-- ==== Sys2Proof/Tests/Slice0.lean ====
section
/-! SUPPORT. The model's own tests: ill-formed terms, code points written out from 30_encoding.md, single steps with the
expected values of 95_test_vectors.md and of the rules' own examples, and a witness for the hypotheses of each statement. -/

namespace Sys2Proof.Tests

open Sys2Proof Sys2Proof.Machine

/-! ### Well-formedness: each check refuses an ill-formed term -/

theorem test_wf_garbage_is_no_start_tag : (Instr.garbageHunt .A 0x7B#8).wf = false := by decide
theorem test_wf_literal_is_no_tag : (Instr.literal .A 0x7D#8).wf = false := by decide
theorem test_wf_data_frame_not_empty : (Instr.dataFrame .A [] false).wf = false := by decide
theorem test_wf_data_frame_at_most_eight : (Instr.dataFrame .A [1, 2, 3, 4, 5, 6, 7, 8, 9] false).wf = false := by decide
theorem test_wf_one_byte_frame_is_no_ack : (Instr.oneByteFrame .A 0x06#8).wf = false := by decide
theorem test_wf_load_not_empty : (Instr.loadTx .A [] .data).wf = false := by decide
theorem test_wf_load_at_least_an_ack : (Instr.loadTx .A [0x7B#8, 0x7D#8] .data).wf = false := by decide
theorem test_wf_assemble_eight_bits : (Instr.assemble [true, false]).wf = false := by decide
theorem test_wf_finish_send_data_frame_only : (Instr.finishFrameSend .A [0x7B#8, 0x06#8, 0x7D#8]).wf = false := by decide
theorem test_wf_finish_send_accepts :
    (Instr.finishFrameSend .A [0x7B#8, 0x69#8, 0x01#8, 0x01#8, 0x7D#8]).wf = true := by decide
theorem test_wf_finish_receive_not_empty : (Instr.finishFrameReceive .A []).wf = false := by decide
theorem test_wf_data_branch_not_empty : (Instr.dataBranch .A []).wf = false := by decide
theorem test_wf_deliver_not_empty : (Instr.deliverHalf .A []).wf = false := by decide

/-! ### Decoding: words written out from 30_encoding.md R60 to R74 -/

theorem test_decode_start_hunt : decode (.hunting .A) [0b01111011#8] = .ok (.startHunt .A) := by decide
theorem test_decode_garbage_hunt : decode (.hunting .A) [0b01111101#8] = .ok (.garbageHunt .A 0x7D#8) := by decide
theorem test_decode_start : decode (.unescaped .B) [0b01111011#8] = .ok (.start .B) := by decide
theorem test_decode_stop : decode (.unescaped .A) [0b01111101#8] = .ok (.stop .A) := by decide
theorem test_decode_esc : decode (.unescaped .A) [0b01011100#8] = .ok (.esc .A) := by decide
theorem test_decode_literal : decode (.unescaped .A) [0b00000110#8] = .ok (.literal .A 0x06#8) := by decide
theorem test_decode_escaped_tag : decode (.escaped .A) [0b01111011#8] = .ok (.literalEscaped .A 0x7B#8) := by decide
theorem test_decode_escaped_non_tag : decode (.escaped .A) [0x41#8] = .ok (.literalEscaped .A 0x41#8) := by decide
theorem test_decode_acktag : decode (.returned .A) [0b00000110#8] = .ok (.ackTagByte .A) := by decide
theorem test_decode_no_acktag : decode (.returned .A) [0x16#8] = .error .notAckTag := by decide
theorem test_decode_seq_zero : decode .seqField [0x00#8] = .ok (.seqByte false) := by decide
theorem test_decode_seq_one : decode .seqField [0x01#8] = .ok (.seqByte true) := by decide
theorem test_decode_no_seq : decode .seqField [0x02#8] = .error .notSequenceByte := by decide
theorem test_decode_parity_one : decode .parityField [0x01#8] = .ok (.parityByte true) := by decide
theorem test_decode_parity_zero : decode .parityField [0x00#8] = .ok (.parityByte false) := by decide
theorem test_decode_esc_pair : decode (.receivedPair .A) [0x5C#8, 0x41#8] = .ok (.escPair .A 0x41#8) := by decide
theorem test_decode_stuff_7b : decode .stuffedPair [0x5C#8, 0x7B#8] = .ok .stuff7B := by decide
theorem test_decode_stuff_7d : decode .stuffedPair [0x5C#8, 0x7D#8] = .ok .stuff7D := by decide
theorem test_decode_stuff_5c : decode .stuffedPair [0x5C#8, 0x5C#8] = .ok .stuff5C := by decide
theorem test_decode_no_stuffed_pair : decode .stuffedPair [0x5C#8, 0x41#8] = .error .notStuffedPair := by decide
theorem test_decode_ack_frame :
    decode (.frame .A) [0b01111011#8, 0b00000110#8, 0b01111101#8] = .ok (.ackFrameCode .A) := by decide
/-- R143: "hello", sequence 0. -/
theorem test_decode_data_frame : decode (.frame .A)
    [0x7B#8, 0x68#8, 0x65#8, 0x6C#8, 0x6C#8, 0x6F#8, 0x00#8, 0x01#8, 0x7D#8] =
      .ok (.dataFrame .A [0x68#8, 0x65#8, 0x6C#8, 0x6C#8, 0x6F#8] false) := by decide
/-- R143: the three tags, sequence 0. -/
theorem test_decode_data_frame_escaped : decode (.frame .A)
    [0x7B#8, 0x5C#8, 0x7B#8, 0x5C#8, 0x7D#8, 0x5C#8, 0x5C#8, 0x00#8, 0x00#8, 0x7D#8] =
      .ok (.dataFrame .A [0x7B#8, 0x7D#8, 0x5C#8] false) := by decide
theorem test_decode_empty_frame : decode (.frame .A) [0x7B#8, 0x7D#8] = .ok (.emptyFrame .A) := by decide
theorem test_decode_one_byte_frame : decode (.frame .A) [0x7B#8, 0x16#8, 0x7D#8] = .ok (.oneByteFrame .A 0x16#8) := by
  decide
/-- R74: with a tag value the wire form is `7B 5C xx 7D`. -/
theorem test_decode_one_byte_frame_tag :
    decode (.frame .A) [0x7B#8, 0x5C#8, 0x5C#8, 0x7D#8] = .ok (.oneByteFrame .A 0x5C#8) := by decide
/-- R161: the parity byte should be `01`. -/
theorem test_decode_bad_parity_refused : decode (.frame .A)
    [0x7B#8, 0x68#8, 0x65#8, 0x6C#8, 0x6C#8, 0x6F#8, 0x00#8, 0x00#8, 0x7D#8] = .error .notAFrame := by decide
theorem test_decode_wrong_length : decode (.unescaped .A) [0x7B#8, 0x7D#8] = .error .wrongLength := by decide

/-- The table's words (R73: the first byte in the most significant position). -/
theorem test_table_words :
    decodeTableWord 8 0x7B = some (.start .A) ∧ decodeTableWord 8 0x7D = some (.stop .A) ∧
    decodeTableWord 8 0x5C = some (.esc .A) ∧ decodeTableWord 8 0x06 = some (.ackTagByte .A) ∧
    decodeTableWord 8 0x01 = some (.seqByte true) ∧ decodeTableWord 8 0x41 = some (.literal .A 0x41#8) ∧
    decodeTableWord 16 0x5C41 = some (.escPair .A 0x41#8) ∧ decodeTableWord 16 0x5C7B = some .stuff7B ∧
    decodeTableWord 16 0x5C7D = some .stuff7D ∧ decodeTableWord 16 0x5C5C = some .stuff5C ∧
    decodeTableWord 24 0x7B067D = some (.ackFrameCode .A) ∧ decodeTableWord 16 0x7B7D = some (.emptyFrame .A) ∧
    decodeTableWord 24 0x7B007D = some (.oneByteFrame .A 0x00#8) ∧
    decodeTableWord 40 0x7B6901017D = some (.dataFrame .A [0x69#8] true) := by decide

/-! ### Single steps -/

/-- Endpoint A in `P`-phase `p`, changed by `f`, the rest as after reset (95_test_vectors.md's start state). -/
def atA (p : Phase) (f : Endpoint → Endpoint) : State :=
  State.reset.setEp .A (f { Endpoint.reset with phase := p })

/-- One value of the next state; `none` where the operation stops. -/
def after {α : Type} (o : Outcome) (f : State → α) : Option α :=
  match o with
  | .next t => some (f t)
  | .fault _ => none
  | .refused _ => none

/-- "hello" (95_test_vectors.md X1). -/
def hello : List Byte := [0x68#8, 0x65#8, 0x6C#8, 0x6C#8, 0x6F#8]

/-- Its frame with sequence 0 (95_test_vectors.md X1). -/
def helloFrame : List Byte := [0x7B#8, 0x68#8, 0x65#8, 0x6C#8, 0x6C#8, 0x6F#8, 0x00#8, 0x01#8, 0x7D#8]

/-- R91's example. -/
theorem test_chk_stop : after (exec (.chkStop .A) (atA .top id)) (fun t => t.a.phase) = some .send := by decide
/-- R92's example. -/
theorem test_send_next :
    after (exec (.sendNext .A) (atA .send fun x => { x with sendBuffer := hello }))
      (fun t => (t.a.sendBuffer, t.a.txFrame, t.a.txShift.length, t.a.txCont, t.a.phase)) =
      some ([], helloFrame, 72, .cData, .tx) := by decide
/-- X8: nine bytes, the ninth stays. -/
theorem test_send_next_takes_eight :
    after (exec (.sendNext .A) (atA .send fun x => { x with sendBuffer := [0x61, 0x62, 0x63, 0x64, 0x65, 0x66, 0x67, 0x68, 0x69] }))
      (fun t => (t.a.sendBuffer, t.a.txFrame)) =
      some ([0x69], [0x7B, 0x61, 0x62, 0x63, 0x64, 0x65, 0x66, 0x67, 0x68, 0x00, 0x01, 0x7D]) := by decide
/-- R92 (a): the gate. -/
theorem test_send_next_gated :
    after (exec (.sendNext .A) (atA .send fun x => { x with sendBuffer := hello, awaitingAck := true }))
      (fun t => (t.a.sendBuffer, t.a.phase)) = some (hello, .drain) := by decide
/-- R93 by R110's example. -/
theorem test_load_tx :
    after (exec (.loadTx .A ackFrame .ack) (atA .process id)) (fun t => (t.a.txShift, t.a.txCont, t.a.phase)) =
      some ([false, true, true, true, true, false, true, true, false, false, false, false, false, true, true, false,
        false, true, true, true, true, true, false, true], .cAck, .tx) := by decide
/-- R112's example. -/
theorem test_tx_bit :
    after (exec (.txBit .A false) (atA .tx fun x => { x with txShift := [false, true], txCont := .cData }))
      (fun t => (t.a.txShift, t.a.phase, t.b.phyBitQueue, t.a.phyBitQueue)) = some ([true], .tx, [false], []) := by decide
/-- R112 and R217: the inverted delivery. -/
theorem test_tx_bit_flipped :
    after (exec (.txBit .A true) { atA .tx fun x => { x with txShift := [false, true] } with
      cfg := { Config.defaults with medium := .lowNoise } }) (fun t => t.b.phyBitQueue) = some [true] := by decide
/-- R94's example. -/
theorem test_tx_done_data :
    after (exec (.txDone .A) { atA .tx fun x => { x with txFrame := helloFrame, txCont := .cData } with now := 5 })
      (fun t => (t.a.awaitingAck, t.a.lastFrame, t.a.timerStart, t.a.phase, t.a.trace)) =
      some (true, some helloFrame, 5, .drain, [.frameSent .data helloFrame]) := by decide
/-- R94, `C_ACK`, with R176's example. -/
theorem test_tx_done_ack :
    after (exec (.txDone .A) (atA .tx fun x =>
      { x with txFrame := ackFrame, txCont := .cAck, rxFrame := 0x00#8 :: hello }))
      (fun t => (t.a.seqRecv, t.a.appBuffer, t.a.awaitingAck, t.a.phase, t.a.trace)) =
      some (true, hello, false, .timeout, [.frameSent .ack ackFrame, .deliver hello]) := by decide
/-- R114's example. -/
theorem test_drain :
    after (exec (.drain .A) (atA .drain fun x =>
      { x with bitBuffer := [false, true, true], phyBitQueue := [true, true, false, true, true, false, false, false] }))
      (fun t => (t.a.receiveBuffer, t.a.bitBuffer, t.a.phyBitQueue, t.a.phase)) =
      some ([0x7B#8], [false, false, false], [], .process) := by decide
/-- R96's example. -/
theorem test_process_ack :
    after (exec (.process .A) (atA .process fun x =>
      { x with receiveBuffer := [0x7B#8, 0x06#8, 0x7D#8], awaitingAck := true, lastFrame := some helloFrame, timerStart := 5 }))
      (fun t => (t.a.receiveBuffer, t.a.awaitingAck, t.a.lastFrame, t.a.timerStart, t.a.seqSend)) =
      some ([], false, none, 0, true) := by decide
/-- R174's example, through `PROCESS`. -/
theorem test_process_data :
    after (exec (.process .A) (atA .process fun x => { x with receiveBuffer := helloFrame ++ [0x7B#8] }))
      (fun t => (t.a.receiveBuffer, t.a.rxFrame, t.a.txFrame, t.a.txShift.length, t.a.phase)) =
      some ([0x7B#8], 0x00#8 :: hello, [0x7B#8, 0x06#8, 0x7D#8], 24, .tx) := by decide
/-- R178's example: 100 ticks are not more than 100. -/
theorem test_chk_timeout_not_yet :
    after (exec (.chkTimeout .A) { atA .timeout fun x =>
      { x with awaitingAck := true, timerStart := 5, lastFrame := some helloFrame } with now := 105 })
      (fun t => t.a.phase) = some .top := by decide
/-- R178's example: 101 ticks are. -/
theorem test_chk_timeout_expired :
    after (exec (.chkTimeout .A) { atA .timeout fun x =>
      { x with awaitingAck := true, timerStart := 5, lastFrame := some helloFrame } with now := 106 })
      (fun t => (t.a.txFrame, t.a.txCont, t.a.phase, t.a.trace)) =
      some (helloFrame, .cRetx, .tx, [.retransmit]) := by decide
/-- R203: the fault, and R210: nothing else changes. -/
theorem test_chk_timeout_not_started :
    after (exec (.chkTimeout .A) (atA .timeout fun x => { x with awaitingAck := true })) (fun t => (t.a.fault, t.a.phase)) =
      some (some .timerNotStarted, .timeout) := by decide
/-- R100's example. -/
theorem test_app_push :
    after (exec (.appPush .A [0x62#8, 0x63#8]) (atA .stopped fun x => { x with sendBuffer := [0x61#8] }))
      (fun t => t.a.sendBuffer) = some [0x61#8, 0x62#8, 0x63#8] := by decide
/-- R101's example. -/
theorem test_phy_rx :
    after (exec (.phyRx .A true) (atA .top fun x => { x with phyBitQueue := [false, true] })) (fun t => t.a.phyBitQueue) =
      some [false, true, true] := by decide
/-- R54: a push beyond the depth. -/
theorem test_phy_rx_overflow :
    after (exec (.phyRx .A true) { atA .top fun x => { x with phyBitQueue := [false] } with
      cfg := { Config.defaults with phyqDepth := some 1 } }) (fun t => (t.a.fault, t.a.phyBitQueue)) =
      some (some .bufferOverflow, [false]) := by decide
/-- R102's example. -/
theorem test_app_retrieve :
    after (exec (.appRetrieve .A) (atA .top fun x => { x with appBuffer := hello })) (fun t => (t.result, t.a.appBuffer)) =
      some (.bytes hello, []) := by decide
/-- R103's example. -/
theorem test_stop_req :
    after (exec (.stopReq .A) (atA .drain id)) (fun t => (t.a.stopReq, t.a.phase)) = some (true, .drain) := by decide
/-- R104's example. -/
theorem test_time_adv : after (exec (.timeAdv 101) { State.reset with now := 5 }) (fun t => t.now) = some 106 := by decide
/-- R240. -/
theorem test_reset :
    after (exec (.reset .A) { atA .stopped fun x => { x with fault := some .bufferOverflow, seqRecv := true } with now := 9 })
      (fun t => (t.a, t.now)) = some (Endpoint.reset, 9) := by decide
/-- R110's, R113's and R125's examples. -/
theorem test_serialize_assemble_parity :
    after (exec (.serialize [0x7B#8]) State.reset) (fun t => t.result) =
      some (.bits [false, true, true, true, true, false, true, true]) ∧
    after (exec (.assemble [false, true, true, true, true, false, true, true]) State.reset) (fun t => t.result) =
      some (.byte 0x7B#8) ∧
    after (exec (.parity [0x68#8, 0x65#8, 0x6C#8, 0x6C#8, 0x6F#8, 0x00#8]) State.reset) (fun t => t.result) =
      some (.byte 0x01#8) := by decide
/-- R135's and R136's examples. -/
theorem test_stuff :
    after (exec (.stuff 0x41#8) State.reset) (fun t => t.result) = some (.bytes [0x41#8]) ∧
    after (exec (.stuff 0x7B#8) State.reset) (fun t => t.result) = some (.bytes [0x5C#8, 0x7B#8]) ∧
    after (exec (.stuffAll [0x7B#8, 0x7D#8, 0x5C#8]) State.reset) (fun t => t.result) =
      some (.bytes [0x5C#8, 0x7B#8, 0x5C#8, 0x7D#8, 0x5C#8, 0x5C#8]) := by decide
/-- R143: rows of the table of worked frames, and R140 (a). -/
theorem test_create_frame :
    createFrame hello false = helloFrame ∧
    createFrame [0x7B#8, 0x7D#8, 0x5C#8] false =
      [0x7B#8, 0x5C#8, 0x7B#8, 0x5C#8, 0x7D#8, 0x5C#8, 0x5C#8, 0x00#8, 0x00#8, 0x7D#8] ∧
    createFrame [0x69#8] true = [0x7B#8, 0x69#8, 0x01#8, 0x01#8, 0x7D#8] ∧
    createFrame [0xFF#8] true = [0x7B#8, 0xFF#8, 0x01#8, 0x01#8, 0x7D#8] ∧
    createFrame [] true = [0x7B#8, 0x01#8, 0x01#8, 0x7D#8] := by decide
/-- R167: rows of the table of worked calls. -/
theorem test_process_frame :
    processFrame [0x41#8, 0x42#8, 0x7B#8, 0x06#8, 0x7D#8] = ⟨[], .frame [0x06#8], [.discard [0x41#8, 0x42#8]]⟩ ∧
    processFrame [0x41#8, 0x42#8, 0x43#8] = ⟨[], .noFrame, [.discard [0x41#8, 0x42#8, 0x43#8]]⟩ ∧
    processFrame [0x99#8, 0x7B#8, 0x68#8, 0x5C#8] = ⟨[0x7B#8, 0x68#8, 0x5C#8], .noFrame, [.discard [0x99#8]]⟩ ∧
    processFrame [0x7B#8, 0x68#8, 0x7B#8, 0x69#8] = ⟨[0x7B#8, 0x69#8], .noFrame, [.discard [0x7B#8, 0x68#8]]⟩ ∧
    processFrame [0x7B#8, 0x7D#8, 0x99#8] = ⟨[0x99#8], .noFrame, [.emptyFrame]⟩ ∧
    processFrame [0x7B#8, 0x5C#8, 0x41#8, 0x00#8, 0x00#8, 0x7D#8] = ⟨[], .frame [0x00#8, 0x41#8], []⟩ ∧
    processFrame [0x7B#8, 0x06#8, 0x00#8, 0x7D#8] = ⟨[], .frame [0x06#8], []⟩ ∧
    processFrame [0x7B#8, 0x5C#8, 0x7D#8] = ⟨[0x7B#8, 0x5C#8, 0x7D#8], .noFrame, []⟩ ∧
    processFrame [0x7B#8, 0x06#8, 0x7D#8, 0x7B#8, 0x69#8, 0x01#8, 0x01#8, 0x7D#8] =
      ⟨[0x7B#8, 0x69#8, 0x01#8, 0x01#8, 0x7D#8], .frame [0x06#8], []⟩ := by decide
/-- R161's example, run as an operation. -/
theorem test_process_frame_damaged :
    after (exec (.processFrame .A [0x7B#8, 0x68#8, 0x65#8, 0x6C#8, 0x6C#8, 0x6F#8, 0x00#8, 0x00#8, 0x7D#8]) State.reset)
      (fun t => (t.result, t.a.trace)) =
      some (.parsed [] .noFrame, [.damaged [0x68#8, 0x65#8, 0x6C#8, 0x6C#8, 0x6F#8, 0x00#8, 0x00#8]]) := by decide
/-- R171's example. -/
theorem test_finish_frame_send :
    after (exec (.finishFrameSend .A [0x7B#8, 0x69#8, 0x01#8, 0x01#8, 0x7D#8])
      { atA .tx fun x => { x with txFrame := [0x7B#8, 0x69#8, 0x01#8, 0x01#8, 0x7D#8], txCont := .cData } with now := 7 })
      (fun t => (t.a.awaitingAck, t.a.lastFrame, t.a.timerStart)) =
      some (true, some [0x7B#8, 0x69#8, 0x01#8, 0x01#8, 0x7D#8], 7) := by decide
/-- R172 (a): a one-byte sequence that is not `06` is data. -/
theorem test_finish_frame_receive :
    after (exec (.finishFrameReceive .A [0x02#8]) (atA .process id)) (fun t => (t.a.rxFrame, t.a.txCont, t.a.seqSend)) =
      some ([0x02#8], .cAck, false) := by decide
/-- R173 (a): an ACK flips `seqSend` with nothing outstanding. -/
theorem test_ack_branch :
    after (exec (.ackBranch .A) (atA .process fun x => { x with seqSend := true })) (fun t => (t.a.seqSend, t.a.trace)) =
      some (false, [.ackSeen]) := by decide
/-- R174's example. -/
theorem test_data_branch :
    after (exec (.dataBranch .A (0x00#8 :: hello)) (atA .process id))
      (fun t => (t.a.rxFrame, t.a.txFrame, t.a.txCont, t.a.phase)) =
      some (0x00#8 :: hello, [0x7B#8, 0x06#8, 0x7D#8], .cAck, .tx) := by decide
/-- A has sent the last bit of the ACK for the sequence `f`. -/
def ackSent (f : List Byte) : State := atA .tx fun x => { x with txCont := .cAck, rxFrame := f }
/-- R56: nothing is delivered while bits of the ACK stand in `txShift`. -/
theorem test_deliver_half_after_the_ack :
    exec (.deliverHalf .A [0x00#8]) ((ackSent [0x00#8]).setEp .A { (ackSent [0x00#8]).a with txShift := [true] }) =
      .fault .notEnabled := by rfl
/-- R176 (a): `r = 0x02` equals neither. -/
theorem test_deliver_half_whole_byte :
    after (exec (.deliverHalf .A [0x02#8, 0x41#8]) (ackSent [0x02#8, 0x41#8]))
      (fun t => (t.a.seqRecv, t.a.appBuffer, t.a.trace)) =
      some (false, [], [.duplicate 0x02#8]) := by decide
/-- R215: not to the sender. -/
theorem test_transmit :
    after (exec (.transmit .B true false) State.reset) (fun t => (t.a.phyBitQueue, t.b.phyBitQueue)) = some ([true], []) := by
  decide
/-- R216 and R217. -/
theorem test_deliver :
    after (exec (.deliverPerfect true) State.reset) (fun t => t.result) = some (.bit true) ∧
    after (exec (.deliverLowNoise true true) State.reset) (fun t => t.result) = some (.bit false) ∧
    after (exec (.deliverLowNoise true false) State.reset) (fun t => t.result) = some (.bit true) := by decide

/-! ### The byte and frame codes -/

/-- Endpoint A inside a `processFrame` call. -/
def scanA (buf : List Byte) (m : ScanMode) (pos : Nat) (ex : List Byte) : State :=
  atA .process fun x => { x with receiveBuffer := buf, scan := ⟨m, pos, ex⟩ }

/-- R151's example, the start tag found after two bytes of garbage. -/
theorem test_start_hunt :
    after (exec (.startHunt .A) (scanA [0x41#8, 0x5C#8, 0x7B#8, 0x06#8] .hunt 2 []))
      (fun t => (t.a.receiveBuffer, t.a.trace, t.a.scan)) =
      some ([0x7B#8, 0x06#8], [.discard [0x41#8, 0x5C#8]], ⟨.inFrame, 1, []⟩) := by decide
/-- R151: no start tag at all. -/
theorem test_garbage_hunt :
    after (exec (.garbageHunt .A 0x43#8) (scanA [0x41#8, 0x42#8, 0x43#8] .hunt 2 []))
      (fun t => (t.a.receiveBuffer, t.a.trace, t.a.phase)) =
      some ([], [.discard [0x41#8, 0x42#8, 0x43#8]], .timeout) := by decide
/-- R156's example. -/
theorem test_start_restarts :
    after (exec (.start .A) (scanA [0x7B#8, 0x68#8, 0x65#8, 0x7B#8, 0x06#8] .inFrame 3 [0x68#8, 0x65#8]))
      (fun t => (t.a.receiveBuffer, t.a.trace, t.a.scan)) =
      some ([0x7B#8, 0x06#8], [.discard [0x7B#8, 0x68#8, 0x65#8]], ⟨.inFrame, 1, []⟩) := by decide
/-- R155's example: an ACK, the bytes after it stay. -/
theorem test_stop_ack :
    after (exec (.stop .A) (scanA [0x7B#8, 0x06#8, 0x7D#8, 0x7B#8, 0x69#8] .inFrame 2 [0x06#8]))
      (fun t => (t.a.receiveBuffer, t.a.seqSend, t.a.phase, t.a.scan)) =
      some ([0x7B#8, 0x69#8], true, .timeout, Scan.idle) := by decide
/-- R162's example. -/
theorem test_stop_data :
    after (exec (.stop .A) (scanA helloFrame .inFrame 8 (hello ++ [0x00#8, 0x01#8])))
      (fun t => (t.a.receiveBuffer, t.a.rxFrame, t.a.phase)) = some ([], 0x00#8 :: hello, .tx) := by decide
/-- R153's example: a lone escape at the end waits. -/
theorem test_esc_last :
    after (exec (.esc .A) (scanA [0x7B#8, 0x68#8, 0x5C#8] .inFrame 2 [0x68#8]))
      (fun t => (t.a.receiveBuffer, t.a.trace, t.a.phase)) = some ([0x7B#8, 0x68#8, 0x5C#8], [], .timeout) := by decide
/-- R154's example: an escaped stop tag is content. -/
theorem test_literal_escaped :
    after (exec (.literalEscaped .A 0x7D#8) (scanA [0x7B#8, 0x5C#8, 0x7D#8, 0x41#8] .escaped 2 []))
      (fun t => t.a.scan) = some ⟨.inFrame, 3, [0x7D#8]⟩ := by decide
theorem test_esc_pair :
    after (exec (.escPair .A 0x7D#8) (scanA [0x7B#8, 0x5C#8, 0x7D#8, 0x41#8] .inFrame 1 [])) (fun t => t.a.scan) =
      some ⟨.inFrame, 3, [0x7D#8]⟩ := by decide
/-- R157: `0x06` is a literal here. -/
theorem test_literal :
    after (exec (.literal .A 0x06#8) (scanA [0x7B#8, 0x06#8, 0x7D#8] .inFrame 1 [])) (fun t => t.a.scan) =
      some ⟨.inFrame, 2, [0x06#8]⟩ := by decide
theorem test_ack_tag :
    after (exec (.ackTagByte .A) (atA .process id)) (fun t => (t.a.seqSend, t.a.phase)) = some (true, .timeout) := by decide
/-- R64, R65, R66. -/
theorem test_sender_codes :
    after (exec (.seqByte true) State.reset) (fun t => t.result) = some (.byte 0x01#8) ∧
    after (exec (.parityByte false) State.reset) (fun t => t.result) = some (.byte 0x00#8) ∧
    after (exec .stuff7B State.reset) (fun t => t.result) = some (.bytes [0x5C#8, 0x7B#8]) ∧
    after (exec .stuff7D State.reset) (fun t => t.result) = some (.bytes [0x5C#8, 0x7D#8]) ∧
    after (exec .stuff5C State.reset) (fun t => t.result) = some (.bytes [0x5C#8, 0x5C#8]) ∧
    after (exec .ackFrame State.reset) (fun t => t.result) = some (.bytes [0x7B#8, 0x06#8, 0x7D#8]) ∧
    after (exec (.createFrame [0x00#8] true) State.reset) (fun t => t.result) =
      some (.bytes [0x7B#8, 0x00#8, 0x01#8, 0x01#8, 0x7D#8]) := by decide
theorem test_ack_frame_code :
    after (exec (.ackFrameCode .A) (scanA [0x7B#8, 0x06#8, 0x7D#8, 0x41#8] .hunt 0 []))
      (fun t => (t.a.receiveBuffer, t.a.seqSend)) = some ([0x41#8], true) := by decide
theorem test_data_frame_code :
    after (exec (.dataFrame .A hello false) (scanA helloFrame .hunt 0 [])) (fun t => (t.a.receiveBuffer, t.a.rxFrame)) =
      some ([], 0x00#8 :: hello) := by decide
theorem test_empty_frame_code :
    after (exec (.emptyFrame .A) (scanA [0x7B#8, 0x7D#8, 0x99#8] .hunt 0 [])) (fun t => (t.a.receiveBuffer, t.a.trace)) =
      some ([0x99#8], [.emptyFrame]) := by decide
/-- R74: answered with an ACK. -/
theorem test_one_byte_frame_code :
    after (exec (.oneByteFrame .A 0x16#8) (scanA [0x7B#8, 0x16#8, 0x7D#8] .hunt 0 []))
      (fun t => (t.a.receiveBuffer, t.a.rxFrame, t.a.txCont)) = some ([], [0x16#8], .cAck) := by decide

/-! ### The step -/

theorem test_step_runs_the_script :
    step { State.reset with script := [.op (.chkStop .A), .op (.stopReq .A)] } =
      exec (.chkStop .A) { State.reset with script := [.op (.stopReq .A)] } := by rfl
/-- An ill-formed line is refused by name (U19). -/
theorem test_step_refuses_ill_formed :
    step { State.reset with script := [.op (.assemble [])] } = .refused .illFormedLine := by rfl
/-- R223: `PHY_RX` is no free step of the closed system; of the open model it is (R101). -/
theorem test_step_refuses_phy_rx_closed :
    step { State.reset with script := [.op (.phyRx .A true)] } = .refused .notAFreeStep := by rfl
theorem test_step_refuses_transmit_closed :
    step { State.reset with script := [.op (.transmit .A true false)] } = .refused .notAFreeStep := by rfl
theorem test_step_runs_phy_rx_open :
    after (step { State.reset with cfg := { Config.defaults with wiring := .openPort }, script := [.op (.phyRx .A true)] })
      (fun t => t.a.phyBitQueue) = some [true] := by decide
theorem test_step_refuses_undecodable :
    step { State.reset with script := [.code (.returned .A) [0x16#8]] } = .refused .undecodable := by rfl
/-- A table word runs as the first instruction after reset. -/
theorem test_fetch_word_stop :
    after (step (State.reset.withFetchWord 8 0x7D)) (fun t => (t.a.receiveBuffer, t.a.trace, t.script)) =
      some ([], [.emptyFrame], []) := by decide
theorem test_fetch_word_ack_frame :
    after (step (State.reset.withFetchWord 24 0x7B067D)) (fun t => (t.a.receiveBuffer, t.a.seqSend)) =
      some ([], true) := by decide
theorem test_fetch_word_esc_pair :
    after (step (State.reset.withFetchWord 16 0x5C41)) (fun t => (t.a.receiveBuffer, t.a.phase)) =
      some ([0x7B#8, 0x5C#8, 0x41#8], .timeout) := by decide

/-! ### Witnesses: for each statement with hypotheses, a state and operands that meet them, clause by clause -/

/-- Both endpoints are registered after boot. -/
theorem registered_both (f : EndpointId) : f ∈ State.reset.registered := by cases f <;> decide

/-- The shortest data frame, `7B 69 01 01 7D` (R143). -/
def oneByteData : List Byte := [0x7B#8, 0x69#8, 0x01#8, 0x01#8, 0x7D#8]

theorem witness_DecodeOfEncodeIsTheInstruction :
    (Instr.dataFrame .B [0x7B#8, 0x7D#8, 0x5C#8, 0x06#8, 0x00#8, 0xFF#8, 0x7B#8, 0x7B#8] true).wf = true ∧
    positionOf (.dataFrame .B [0x7B#8, 0x7D#8, 0x5C#8, 0x06#8, 0x00#8, 0xFF#8, 0x7B#8, 0x7B#8] true) =
      some (.frame .B) := by decide

theorem witness_DecodedCodeEncodesBack : decode (.frame .A) oneByteData = .ok (.dataFrame .A [0x69#8] true) := by decide

theorem witness_StepRunsTheScriptedInstruction :
    ({ State.reset with script := [.op (.chkStop .A)] } : State).script = .op (.chkStop .A) :: [] ∧
    (Instr.chkStop .A).wf = true ∧
    ({ State.reset with script := [.code (.unescaped .A) [0x7D#8]] } : State).script =
      .code (.unescaped .A) [0x7D#8] :: [] ∧
    decode (.unescaped .A) [0x7D#8] = .ok (.stop .A) ∧ (Instr.stop .A).wf = true ∧
    (State.reset.cfg.wiring = .openPort ∨
      (∀ e b, Instr.chkStop .A ≠ .phyRx e b) ∧ (∀ e b draw, Instr.chkStop .A ≠ .transmit e b draw)) ∧ State.reset.cfg.wiring = .closed ∧
    (Instr.assemble []).wf = false ∧ decode (.returned .A) [0x16#8] = .error .notAckTag :=
  ⟨rfl, rfl, rfl, by decide, rfl, .inr ⟨fun _ _ => by simp, fun _ _ _ => by simp⟩, rfl, rfl, by decide⟩

/-- Both endpoints stopped. -/
def bothOver : State := { State.reset with a := { Endpoint.reset with phase := .stopped }, b := { Endpoint.reset with
  fault := some .bufferOverflow } }

theorem witness_UnscriptedStepRunsAnEnabledLoopOperation :
    State.reset.script = [] ∧ ¬ (State.reset.ep .A).over ∧ bothOver.script = [] ∧ (bothOver.ep .A).over ∧
    (bothOver.ep .B).over := by decide

theorem witness_InvariantsHoldAfterBoot : Config.defaults.timeWidth = none ∧ 1 ≤ 1 := by decide

/-- A in the middle of sending its first frame, one scripted `TX_BIT` to come. -/
def midFrame : State :=
  { atA .tx (fun x => { x with
      txFrame := oneByteData, txShift := serialize oneByteData, txCont := .cData, seqSend := true }) with
    script := [.op (.txBit .A false)] }

theorem midFrame_inv : midFrame.Inv := by
  refine ⟨rfl, by decide, registered_both, ?_⟩
  intro e
  cases e
  · refine ⟨?_, by decide, by decide, ?_, ⟨fun _ => (by decide), fun f h => (by cases h)⟩, by decide, by decide, by decide⟩
    · simp [Endpoint.senderConsistent, Endpoint.timerRunning, midFrame, atA, State.ep, State.setEp, Endpoint.reset]
    · refine ⟨fun h => absurd rfl h, fun _ => ⟨by decide, List.suffix_refl _⟩⟩
  · refine ⟨?_, by decide, by decide, ?_, ⟨fun h => (by cases h), fun f h => (by cases h)⟩, by decide, by decide, by decide⟩
    · simp [Endpoint.senderConsistent, Endpoint.timerRunning, midFrame, atA, State.ep, State.setEp, State.reset,
        State.boot, Endpoint.reset]
    · exact ⟨fun _ => ⟨rfl, rfl, rfl, rfl⟩, fun h => by cases h⟩

theorem midFrame_runInv : midFrame.RunInv := by
  refine ⟨midFrame_inv, by decide, ?_⟩
  intro e
  cases e
  · refine ⟨fun f h => (by cases h), fun _ _ => ⟨⟨[0x69#8], by decide, by decide, by decide⟩, rfl⟩,
      fun _ h => (by cases h), fun _ h => (by cases h)⟩
  · exact ⟨fun f h => (by cases h), fun h => (by cases h), fun h => (by cases h), fun h => (by cases h)⟩

theorem witness_EveryStepKeepsTheInvariant : midFrame.Inv ∧ ∃ t, step midFrame = .next t := ⟨midFrame_inv, _, rfl⟩

theorem witness_EveryStepKeepsTheFrameInvariant : midFrame.RunInv ∧ ∃ t, step midFrame = .next t :=
  ⟨midFrame_runInv, _, rfl⟩

/-- The same without a script. -/
def midFrameFree : State := { midFrame with script := [] }

theorem witness_TheEventLoopsNeverGetStuck :
    midFrameFree.RunInv ∧ midFrameFree.script = [] ∧ ∃ e, ¬ (midFrameFree.ep e).over := by
  have h : ∀ e, midFrameFree.ep e = midFrame.ep e := fun e => by cases e <;> rfl
  refine ⟨⟨⟨rfl, by decide, registered_both, fun e => ?_⟩, by decide, fun e => ?_⟩, rfl, .A, by decide⟩
  · rw [h e]; exact midFrame_inv.endpoints e
  · rw [h e]; exact midFrame_runInv.frames e

theorem witness_ChkStopTestsTheStopFlag :
    ((atA .top id).ep .A).phase = .top ∧ ((atA .top id).ep .A).fault = none ∧ ((atA .top id).ep .A).stopReq = false ∧
    ((atA .top fun x => { x with stopReq := true }).ep .A).stopReq = true := by decide

theorem witness_SendNextSendsOneFrameThroughTheGate :
    ((atA .send fun x => { x with sendBuffer := hello }).ep .A).phase = .send ∧
    ((atA .send fun x => { x with sendBuffer := hello }).ep .A).fault = none ∧
    ((atA .send fun x => { x with sendBuffer := hello }).ep .A).awaitingAck = false ∧
    ((atA .send fun x => { x with sendBuffer := hello }).ep .A).sendBuffer ≠ [] ∧
    ((atA .send fun x => { x with awaitingAck := true }).ep .A).awaitingAck = true ∧
    ((atA .send id).ep .A).sendBuffer = [] := by decide

theorem witness_LoadTxLoadsTheEncoder :
    ((atA .send id).ep .A).fault = none ∧ ((atA .send id).ep .A).scan = Scan.idle ∧ ((atA .send id).ep .A).phase = .send ∧
    ((atA .process id).ep .A).phase = .process ∧ ((atA .timeout id).ep .A).phase = .timeout ∧
    ((atA .top id).ep .A).phase = .top ∧ ((atA .tx id).ep .A).phase = .tx ∧ ((atA .drain id).ep .A).phase = .drain ∧
    ((atA .stopped id).ep .A).phase = .stopped ∧ 3 ≤ ackFrame.length := by decide

/-- A with one bit left to send. -/
def lastBit : State := atA .tx fun x => { x with txShift := [true], txCont := .cAck }

theorem witness_TxBitDeliversOneBitToThePeer :
    (lastBit.ep .A).phase = .tx ∧ (lastBit.ep .A).fault = none ∧ (lastBit.ep .A).txShift = true :: [] ∧
    lastBit.cfg.wiring = .closed ∧ lastBit.cfg.medium = .perfect ∧ (∀ f : EndpointId, f ∈ lastBit.registered) ∧
    (∀ n, ({ Config.defaults with phyqDepth := some 1, medium := .lowNoise } : Params).phyqDepth = some n →
      (lastBit.ep (peer .A)).phyBitQueue.length < n) :=
  ⟨rfl, rfl, rfl, rfl, rfl, registered_both, fun n h => (by cases h; decide)⟩

theorem witness_TxBitOutputsOnTheOpenPort :
    (lastBit.ep .A).phase = .tx ∧ (lastBit.ep .A).fault = none ∧ (lastBit.ep .A).txShift = true :: [] ∧
    ({ lastBit with cfg := { Config.defaults with wiring := .openPort } } : State).cfg.wiring = .openPort := by decide

/-- A not registered, one bit left to send. -/
def unregistered : State := { lastBit with registered := [.B] }

theorem witness_UnregisteredSenderIsFatal :
    EndpointId.A ∉ unregistered.registered ∧ (unregistered.ep .A).phase = .tx ∧ (unregistered.ep .A).fault = none ∧
    (unregistered.ep .A).txShift ≠ [] ∧ unregistered.cfg.wiring = .closed := by decide

theorem witness_TxDoneEndsATransmission :
    ((atA .tx fun x => { x with txCont := .cData }).ep .A).txShift = [] ∧
    ((atA .tx fun x => { x with txCont := .cData }).ep .A).phase = .tx ∧
    ((atA .tx fun x => { x with txCont := .cData }).ep .A).fault = none ∧
    ((atA .tx fun x => { x with txCont := .cRetx, lastFrame := some helloFrame }).ep .A).lastFrame = some helloFrame ∧
    ((atA .tx fun x => { x with txCont := .cAck, rxFrame := [0x00#8] }).ep .A).rxFrame = 0x00#8 :: [] ∧
    (atA .tx id).cfg.appbufDepth = none ∧ 0x00#8 = zext8 ((atA .tx id).ep .A).seqRecv ∧
    0x01#8 ≠ zext8 ((atA .tx id).ep .A).seqRecv ∧ ((atA .tx id).ep .A).appBuffer.length + [0x61#8].length ≤ 1 := by decide

theorem witness_DrainAssemblesBytesInOrder :
    ((atA .drain id).ep .A).phase = .drain ∧ ((atA .drain id).ep .A).fault = none ∧
    (atA .drain id).cfg.bitbufDepth = none ∧ (atA .drain id).cfg.rxbufDepth = none := by decide

/-- Eight waiting bits, a decoder of depth 8 and a receive buffer of depth 1: they just fit. -/
def justFits : State :=
  { atA .drain fun x => { x with phyBitQueue := bitsMSB 0x7B#8 } with
    cfg := { Config.defaults with bitbufDepth := some 8, rxbufDepth := some 1 } }

theorem witness_DrainAssemblesBytesInOrder_finite :
    (justFits.ep .A).phase = .drain ∧ (justFits.ep .A).fault = none ∧ justFits.cfg.bitbufDepth = some 8 ∧
    (justFits.ep .A).bitBuffer.length + (justFits.ep .A).phyBitQueue.length = 8 ∧ justFits.cfg.rxbufDepth = some 1 ∧
    (justFits.ep .A).receiveBuffer.length + 8 / 8 ≤ 1 ∧
    after (exec (.drain .A) justFits) (fun t => t.a.receiveBuffer) = some [0x7B#8] := by decide

theorem witness_ProcessParsesAtMostOneFrame :
    ((atA .process id).ep .A).phase = .process ∧ ((atA .process id).ep .A).fault = none ∧
    ((atA .process id).ep .A).scan = Scan.idle ∧ ((atA .process id).ep .A).receiveBuffer = [] ∧
    (processFrame [0x7B#8]).res = .noFrame ∧ (processFrame helloFrame).res = .frame (0x00#8 :: hello) := by decide

/-- A waiting for an ACK since tick 5. -/
def waiting (now : Nat) : State :=
  { atA .timeout fun x => { x with awaitingAck := true, timerStart := 5, lastFrame := some helloFrame } with now := now }

theorem witness_ChkTimeoutRetransmitsWhenExpired :
    ((waiting 105).ep .A).phase = .timeout ∧ ((waiting 105).ep .A).fault = none ∧ (waiting 105).cfg.timeWidth = none ∧
    ((waiting 105).ep .A).awaitingAck = true ∧ ((waiting 105).ep .A).timerStart ≠ 0 ∧
    (waiting 105).now - ((waiting 105).ep .A).timerStart ≤ 100 * (waiting 105).cfg.ticksPerMs ∧
    ((waiting 106).ep .A).lastFrame = some helloFrame ∧
    (waiting 106).now - ((waiting 106).ep .A).timerStart > 100 * (waiting 106).cfg.ticksPerMs ∧
    ((atA .timeout id).ep .A).awaitingAck = false ∧
    ((atA .timeout fun x => { x with awaitingAck := true }).ep .A).timerStart = 0 := by decide

theorem witness_OperationsOutOfPlaceAreNotEnabled :
    ((atA .stopped id).ep .A).phase ≠ .top ∧ ((atA .top fun x => { x with fault := some .bufferOverflow }).ep .A).fault ≠ none ∧
    ((atA .tx id).ep .A).txShift = [] ∧ (lastBit.ep .A).txShift ≠ [] ∧
    ((atA .process id).ep .A).receiveBuffer[((atA .process id).ep .A).scan.pos]? ≠ some 0x7B#8 ∧
    ((atA .process id).ep .A).scan.mode ≠ .inFrame ∧ ((atA .process id).ep .A).scan.mode ≠ .escaped ∧
    ((scanA [0x7B#8] .inFrame 1 []).ep .A).scan.mode ≠ .hunt ∧ ((scanA [0x7B#8] .inFrame 1 []).ep .A).scan ≠ Scan.idle ∧
    ((atA .process id).ep .A).receiveBuffer[((atA .process id).ep .A).scan.pos + 1]? ≠ some 0x7B#8 ∧
    positionOf (.emptyFrame .A) = some (.frame .A) ∧
    ¬ encode (.emptyFrame .A) <+: ((atA .process id).ep .A).receiveBuffer ∧
    ((atA .drain id).ep .A).phase ≠ .send ∧ ((atA .drain id).ep .A).phase ≠ .process ∧
    ((atA .drain id).ep .A).phase ≠ .timeout ∧ [0x00#8] ≠ [0x06#8] ∧ ((atA .drain id).ep .A).phase ≠ .tx ∧
    ((atA .tx id).ep .A).txCont ≠ .cAck ∧ ((atA .tx id).ep .A).txCont ≠ .cData ∧
    ((atA .tx id).ep .A).txCont ≠ .cRetx ∧ [0x00#8] ≠ ((ackSent [0x02#8]).ep .A).rxFrame := by decide

/-- Depths of one element. -/
def depthOne : Params :=
  { Config.defaults with
    sendbufDepth := some 1, phyqDepth := some 1, bitbufDepth := some 1, rxbufDepth := some 1, appbufDepth := some 1 }

theorem witness_PushPortsAppendAtTheTail :
    (∀ n, depthOne.sendbufDepth = some n → (Endpoint.reset).sendBuffer.length + [0x61#8].length ≤ n) ∧
    (∀ n, depthOne.phyqDepth = some n → (Endpoint.reset).phyBitQueue.length < n) :=
  ⟨fun n h => (by cases h; decide), fun n h => (by cases h; decide)⟩

theorem witness_StopReqTakesEffectAtTheNextChkStop :
    ((atA .top id).ep .A).phase = .top ∧ ((atA .top id).ep .A).fault = none := by decide

theorem witness_TimeAdvMovesTheClock : State.reset.cfg.timeWidth = none := rfl

/-- Every queue of depth one is full; A drains. -/
def full (p : Phase) : State :=
  { atA p fun x => { x with
      sendBuffer := [0x61#8], phyBitQueue := [true], bitBuffer := [true], appBuffer := [0x61#8], txShift := [true] } with
    b := { Endpoint.reset with phyBitQueue := [true] }
    cfg := depthOne }

theorem witness_FullQueueRaisesBufferOverflow :
    [0x62#8] ≠ [] ∧ (full .drain).cfg.sendbufDepth = some 1 ∧ 1 < ((full .drain).ep .A).sendBuffer.length + [0x62#8].length ∧
    1 ≤ ((full .drain).ep .A).phyBitQueue.length ∧ ((full .drain).ep .A).phase = .drain ∧
    ((full .drain).ep .A).fault = none ∧ ((full .drain).ep .A).phyBitQueue ≠ [] ∧
    1 < ((full .drain).ep .A).bitBuffer.length + ((full .drain).ep .A).phyBitQueue.length ∧
    ((full .tx).ep .A).phase = .tx ∧ ((full .tx).ep .A).txShift ≠ [] ∧ (full .tx).cfg.wiring = .closed ∧
    1 ≤ ((full .tx).ep (peer .A)).phyBitQueue.length := by decide

/-- An ACK has just gone for a byte that `appBuffer` has no room for. -/
def fullDelivery : State :=
  { atA .tx fun x => { x with txCont := .cAck, rxFrame := [0x00#8, 0x62#8], appBuffer := [0x61#8] } with cfg := depthOne }

theorem witness_FullQueueRaisesBufferOverflow_delivery :
    [0x62#8] ≠ [] ∧ (fullDelivery.ep .A).phase = .tx ∧ (fullDelivery.ep .A).fault = none ∧
    (fullDelivery.ep .A).txShift = [] ∧ (fullDelivery.ep .A).txCont = .cAck ∧
    (fullDelivery.ep .A).rxFrame = zext8 (fullDelivery.ep .A).seqRecv :: [0x62#8] ∧
    fullDelivery.cfg.appbufDepth = some 1 ∧ 1 < (fullDelivery.ep .A).appBuffer.length + [0x62#8].length := by decide

/-- A receive buffer of depth 0 and eight waiting bits. -/
def fullReceive : State :=
  { atA .drain fun x => { x with phyBitQueue := bitsMSB 0x7B#8 } with cfg := { Config.defaults with rxbufDepth := some 0 } }

theorem witness_FullQueueRaisesBufferOverflow_receiveBuffer :
    (fullReceive.ep .A).phase = .drain ∧ (fullReceive.ep .A).fault = none ∧
    8 ≤ (fullReceive.ep .A).bitBuffer.length + (fullReceive.ep .A).phyBitQueue.length ∧
    fullReceive.cfg.rxbufDepth = some 0 ∧
    0 < (fullReceive.ep .A).receiveBuffer.length +
      ((fullReceive.ep .A).bitBuffer.length + (fullReceive.ep .A).phyBitQueue.length) / 8 := by decide

theorem witness_PureFunctionsAndCodesReturnTheirValue : ([true] : List Bit).length ≠ 8 := by decide

theorem witness_FinishFrameSendStartsTheTimer :
    ((atA .tx fun x => { x with txCont := .cData }).ep .A).phase = .tx ∧
    ((atA .tx fun x => { x with txCont := .cData, txFrame := helloFrame }).ep .A).fault = none ∧
    ((atA .tx fun x => { x with txCont := .cData, txFrame := helloFrame }).ep .A).txShift = [] ∧
    ((atA .tx fun x => { x with txCont := .cData, txFrame := helloFrame }).ep .A).txCont = .cData ∧
    helloFrame = ((atA .tx fun x => { x with txCont := .cData, txFrame := helloFrame }).ep .A).txFrame ∧
    ((atA .tx fun x => { x with txCont := .cRetx, lastFrame := some helloFrame }).ep .A).txCont = .cRetx ∧
    ((atA .tx fun x => { x with txCont := .cRetx, lastFrame := some helloFrame }).ep .A).lastFrame = some helloFrame := by
  decide

theorem witness_AnAckIsObservedUnconditionally : ((atA .process id).ep .A).canDispatch := by decide

theorem witness_EveryOtherSequenceIsAcknowledged :
    ((atA .process id).ep .A).canLoadTx ∧ [0x02#8] ≠ [] ∧ [0x02#8] ≠ [0x06#8] := by decide

theorem witness_DeliverHalfDeliversInSequence :
    ((ackSent [0x00#8]).ep .A).phase = .tx ∧ ((ackSent [0x00#8]).ep .A).fault = none ∧
    ((ackSent [0x00#8]).ep .A).txShift = [] ∧ ((ackSent [0x00#8]).ep .A).txCont = .cAck ∧
    ((ackSent [0x00#8]).ep .A).rxFrame = 0x00#8 :: [] ∧ ((ackSent [0x02#8]).ep .A).rxFrame = 0x02#8 :: [] ∧
    (atA .tx id).cfg.appbufDepth = none ∧
    0x00#8 = zext8 ((atA .tx id).ep .A).seqRecv ∧ 0x02#8 ≠ zext8 ((atA .tx id).ep .A).seqRecv ∧
    depthOne.appbufDepth = some 1 ∧ ((atA .tx id).ep .A).appBuffer.length + [0x61#8].length ≤ 1 := by decide

theorem witness_SecondDeliveryIsAcknowledgedNotDelivered :
    ((atA .process id).ep .A).canLoadTx ∧ (atA .process id).cfg.wiring = .closed ∧
    (∀ f : EndpointId, f ∈ (atA .process id).registered) ∧ (atA .process id).cfg.phyqDepth = none ∧
    (atA .process id).cfg.appbufDepth = none ∧ (List.replicate 24 false).length = 24 :=
  ⟨by decide, rfl, registered_both, rfl, rfl, rfl⟩

theorem witness_TransmitDeliversToThePeer :
    EndpointId.A ∈ State.reset.registered ∧ peer .A ∈ State.reset.registered ∧ State.reset.cfg.medium = .perfect ∧
    ({ Config.defaults with medium := .lowNoise } : Params).medium = .lowNoise ∧
    peer .A ∉ ({ State.reset with registered := [.A] } : State).registered ∧
    (∀ n, depthOne.phyqDepth = some n → (State.reset.ep (peer .A)).phyBitQueue.length < n) ∧
    EndpointId.A ∉ unregistered.registered ∧ (full .top).cfg.phyqDepth = some 1 ∧
    1 ≤ ((full .top).ep (peer .A)).phyBitQueue.length :=
  ⟨by decide, by decide, rfl, rfl, by decide, fun n h => (by cases h; decide), by decide, rfl, by decide⟩

theorem witness_HuntingDiscardsGarbage :
    ((scanA [0x7B#8] .hunt 0 []).ep .A).phase = .process ∧ ((scanA [0x7B#8] .hunt 0 []).ep .A).fault = none ∧
    ((scanA [0x7B#8] .hunt 0 []).ep .A).scan.mode = .hunt ∧
    ((scanA [0x7B#8] .hunt 0 []).ep .A).receiveBuffer = [] ++ 0x7B#8 :: [] ∧
    ((scanA [0x7B#8] .hunt 0 []).ep .A).scan.pos = ([] : List Byte).length ∧
    ((scanA [0x41#8, 0x7B#8] .hunt 1 []).ep .A).receiveBuffer = [0x41#8] ++ 0x7B#8 :: [] ∧
    ((scanA [0x41#8, 0x7B#8] .hunt 0 []).ep .A).receiveBuffer = [] ++ 0x41#8 :: [0x7B#8] ∧
    ((scanA [0x41#8] .hunt 0 []).ep .A).receiveBuffer = [] ++ [0x41#8] ∧ 0x41#8 ≠ 0x7B#8 ∧ [0x7B#8] ≠ [] := by decide

theorem witness_StartInsideAFrameRestarts :
    ((scanA [0x7B#8, 0x7B#8] .inFrame 1 []).ep .A).phase = .process ∧
    ((scanA [0x7B#8, 0x7B#8] .inFrame 1 []).ep .A).fault = none ∧
    ((scanA [0x7B#8, 0x7B#8] .inFrame 1 []).ep .A).scan.mode = .inFrame ∧
    ((scanA [0x7B#8, 0x7B#8] .inFrame 1 []).ep .A).receiveBuffer = [0x7B#8] ++ 0x7B#8 :: [] ∧
    ((scanA [0x7B#8, 0x7B#8] .inFrame 1 []).ep .A).scan.pos = [0x7B#8].length ∧ [0x7B#8] ≠ [] := by decide

theorem witness_EscapedBytesAreTakenLiterally :
    ((scanA [0x7B#8, 0x5C#8] .inFrame 1 []).ep .A).phase = .process ∧
    ((scanA [0x7B#8, 0x5C#8] .inFrame 1 []).ep .A).fault = none ∧
    ((scanA [0x7B#8, 0x5C#8] .inFrame 1 []).ep .A).scan.mode = .inFrame ∧
    ((scanA [0x7B#8, 0x5C#8] .inFrame 1 []).ep .A).receiveBuffer = [0x7B#8] ++ 0x5C#8 :: [] ∧
    ((scanA [0x7B#8, 0x5C#8] .inFrame 1 []).ep .A).scan.pos = [0x7B#8].length ∧
    ((scanA [0x7B#8, 0x5C#8, 0x7D#8] .inFrame 1 []).ep .A).receiveBuffer = [0x7B#8] ++ 0x5C#8 :: [0x7D#8] ∧
    [0x7D#8] = 0x7D#8 :: [] ∧
    ((scanA [0x7B#8, 0x5C#8, 0x7D#8] .escaped 2 []).ep .A).scan.mode = .escaped ∧
    ((scanA [0x7B#8, 0x5C#8, 0x7D#8] .escaped 2 []).ep .A).receiveBuffer = [0x7B#8, 0x5C#8] ++ 0x7D#8 :: [] := by decide

theorem witness_LiteralBytesAreAppended :
    ((scanA [0x7B#8, 0x06#8] .inFrame 1 []).ep .A).phase = .process ∧
    ((scanA [0x7B#8, 0x06#8] .inFrame 1 []).ep .A).fault = none ∧
    ((scanA [0x7B#8, 0x06#8] .inFrame 1 []).ep .A).scan.mode = .inFrame ∧
    ((scanA [0x7B#8, 0x06#8] .inFrame 1 []).ep .A).receiveBuffer = [0x7B#8] ++ 0x06#8 :: [] ∧
    ((scanA [0x7B#8, 0x06#8] .inFrame 1 []).ep .A).scan.pos = [0x7B#8].length ∧ 0x06#8 ≠ 0x7B#8 ∧ 0x06#8 ≠ 0x7D#8 ∧
    0x06#8 ≠ 0x5C#8 := by decide

theorem witness_StopEndsTheFrameAndClassifies :
    ((scanA [0x7B#8, 0x7D#8] .inFrame 1 []).ep .A).phase = .process ∧
    ((scanA [0x7B#8, 0x7D#8] .inFrame 1 []).ep .A).fault = none ∧
    ((scanA [0x7B#8, 0x7D#8] .inFrame 1 []).ep .A).scan.mode = .inFrame ∧
    ((scanA [0x7B#8, 0x7D#8] .inFrame 1 []).ep .A).receiveBuffer = [0x7B#8] ++ 0x7D#8 :: [] ∧
    ((scanA [0x7B#8, 0x7D#8] .inFrame 1 []).ep .A).scan.pos = [0x7B#8].length ∧
    ((scanA [0x7B#8, 0x7D#8] .inFrame 1 []).ep .A).scan.extracted = [] ∧
    ((scanA [0x7B#8, 0x06#8, 0x7D#8] .inFrame 2 [0x06#8]).ep .A).scan.extracted = [0x06#8] ∧
    ((scanA oneByteData .inFrame 4 [0x69#8, 0x01#8, 0x01#8]).ep .A).scan.extracted = [0x69#8] ++ [0x01#8, 0x01#8] ∧
    parity ([0x69#8] ++ [0x01#8]) = 0x01#8 ∧ parity ([] ++ [0x00#8]) ≠ 0x01#8 := by decide

theorem witness_ByteCodesRefineProcess :
    ((atA .process fun x => { x with receiveBuffer := [0x41#8] }).ep .A).phase = .process ∧
    ((atA .process fun x => { x with receiveBuffer := [0x41#8] }).ep .A).fault = none ∧
    ((atA .process fun x => { x with receiveBuffer := [0x41#8] }).ep .A).scan = Scan.idle ∧
    ((atA .process fun x => { x with receiveBuffer := [0x41#8] }).ep .A).receiveBuffer ≠ [] := by decide

theorem witness_FrameCodesAreConsumedAndDispatched :
    ((scanA [0x7B#8, 0x06#8, 0x7D#8] .hunt 0 []).ep .A).phase = .process ∧
    ((scanA [0x7B#8, 0x06#8, 0x7D#8] .hunt 0 []).ep .A).fault = none ∧
    ((scanA [0x7B#8, 0x06#8, 0x7D#8] .hunt 0 []).ep .A).scan = Scan.idle ∧
    ((scanA [0x7B#8, 0x06#8, 0x7D#8] .hunt 0 []).ep .A).receiveBuffer = [0x7B#8, 0x06#8, 0x7D#8] ++ [] ∧
    ((scanA helloFrame .hunt 0 []).ep .A).receiveBuffer = createFrame hello false ++ [] ∧
    ((scanA [0x7B#8, 0x7D#8] .hunt 0 []).ep .A).receiveBuffer = [0x7B#8, 0x7D#8] ++ [] ∧ 0x5C#8 ≠ 0x06#8 ∧
    ((scanA [0x7B#8, 0x5C#8, 0x5C#8, 0x7D#8] .hunt 0 []).ep .A).receiveBuffer =
      [0x7B#8] ++ stuff 0x5C#8 ++ [0x7D#8] ++ [] := by decide

theorem witness_FrameCodesActAsProcess :
    positionOf (.dataFrame .A hello false) = some (.frame .A) ∧
    ((scanA helloFrame .hunt 0 []).ep .A).phase = .process ∧ ((scanA helloFrame .hunt 0 []).ep .A).fault = none ∧
    ((scanA helloFrame .hunt 0 []).ep .A).scan = Scan.idle ∧
    encode (.dataFrame .A hello false) <+: ((scanA helloFrame .hunt 0 []).ep .A).receiveBuffer := by decide

theorem witness_FramingRoundTrip : 0x7B#8 ∉ ([0x41#8, 0x5C#8] : List Byte) ∧ 0x7B#8 ∉ ([] : List Byte) := by decide

theorem witness_FrameSizes : 1 ≤ ([0x7B#8] : List Byte).length ∧ (List.replicate 8 0x7B#8).length ≤ 8 := by decide

theorem witness_OddFlipsAreDetected :
    ([0x69#8, 0x01#8] : List Byte) ≠ [] ∧ ([0x69#8, 0x01#8] : List Byte).length = [0x68#8, 0x01#8].length ∧
    parity [0x69#8, 0x01#8] = 0x01#8 ∧
    (List.zipWith xor (serialize ([0x69#8, 0x01#8] ++ [0x01#8])) (serialize ([0x68#8, 0x01#8] ++ [0x01#8]))).count true % 2 = 1 := by
  decide

theorem witness_ProcessFrameKeepsASuffixAndWaitsStably :
    (processFrame oneByteData).res = .frame [0x01#8, 0x69#8] ∧
    (processFrame [0x41#8, 0x7B#8, 0x5C#8]).res = .noFrame ∧
    (processFrame [0x41#8, 0x7B#8, 0x5C#8]).log = [.discard [0x41#8]] := by decide

theorem witness_TransmissionDeliversTheBitsInOrder :
    (lastBit.ep .A).phase = .tx ∧ (lastBit.ep .A).fault = none ∧ lastBit.cfg.wiring = .closed ∧
    (∀ f : EndpointId, f ∈ lastBit.registered) ∧ lastBit.cfg.phyqDepth = none ∧
    [true].length = (lastBit.ep .A).txShift.length :=
  ⟨rfl, rfl, rfl, registered_both, rfl, rfl⟩

/-- A about to send nine bytes, B draining. -/
def linkStart : State :=
  { atA .send fun x => { x with sendBuffer := [0x61#8, 0x62#8, 0x63#8, 0x64#8, 0x65#8, 0x66#8, 0x67#8, 0x68#8, 0x69#8] } with
    b := { Endpoint.reset with phase := .drain } }

theorem witness_OneFrameCrossesTheLink :
    ((linkStart.ep .A).phase = .send ∧ (linkStart.ep .A).fault = none ∧ (linkStart.ep .A).awaitingAck = false ∧
      (linkStart.ep .A).sendBuffer ≠ []) ∧
    ((linkStart.ep (peer .A)).phase = .drain ∧ (linkStart.ep (peer .A)).fault = none ∧
      (linkStart.ep (peer .A)).scan = Scan.idle ∧ (linkStart.ep (peer .A)).phyBitQueue = [] ∧
      (linkStart.ep (peer .A)).bitBuffer = [] ∧ (linkStart.ep (peer .A)).receiveBuffer = []) ∧
    (linkStart.cfg.wiring = .closed ∧ linkStart.cfg.medium = .perfect ∧ linkStart.cfg.phyqDepth = none ∧
      linkStart.cfg.bitbufDepth = none ∧ linkStart.cfg.rxbufDepth = none ∧ linkStart.cfg.appbufDepth = none) ∧
    (∀ f : EndpointId, f ∈ linkStart.registered) ∧
    (List.replicate 96 false).length =
      8 * (createFrame ((linkStart.ep .A).sendBuffer.take 8) (linkStart.ep .A).seqSend).length ∧
    (linkStart.ep .A).seqSend = (linkStart.ep (peer .A)).seqRecv :=
  ⟨by decide, by decide, by decide, registered_both, by decide, rfl⟩

theorem witness_AnIdleIterationChangesNothing :
    ((atA .top id).ep .A).phase = .top ∧ ((atA .top id).ep .A).fault = none ∧ ((atA .top id).ep .A).stopReq = false ∧
    ((atA .top id).ep .A).sendBuffer = [] ∧ ((atA .top id).ep .A).phyBitQueue = [] ∧
    ((atA .top fun x => { x with bitBuffer := List.replicate 7 true }).ep .A).bitBuffer.length ≤ 7 ∧
    ((atA .top id).ep .A).receiveBuffer = [] ∧ ((atA .top id).ep .A).awaitingAck = false ∧
    ((atA .top id).ep .A).scan = Scan.idle := by decide

/-- The hypothesis of `OnlyTheWireReachesThePeer`, `OnlyTimeAdvMovesTheClock`, `FaultAndStopRequestAreSticky`,
`QueuesAreFirstInFirstOut` and `TheTraceIsAppendOnly`: an operation that completes. -/
theorem witness_wholeMachineRules :
    (∃ t, exec (.txBit .A false) lastBit = .next t) ∧ Instr.txBit .A false ≠ .reset .A ∧
    actor (.txBit .A false) = some .A ∧ usesMedium (.txBit .A false) = true ∧
    (∃ t, exec (.phyRx .A true) bothOver = .next t) ∧ usesMedium (.phyRx .A true) = false ∧
    State.reset.cfg.wiring = .closed ∧ (∃ t, step { State.reset with script := [.op (.chkStop .A)] } = .next t) ∧
    (State.reset.ep (peer .A)).phase ≠ .tx ∧
    (bothOver.ep .B).fault ≠ none ∧ (∃ t, exec (.timeAdv 1) bothOver = .next t) ∧ actor (.timeAdv 1) = none :=
  ⟨⟨_, rfl⟩, by decide, rfl, rfl, ⟨_, rfl⟩, rfl, rfl, ⟨_, rfl⟩, by decide, by decide, ⟨_, rfl⟩, rfl⟩

theorem witness_SequenceBitsFlipOnlyOnAcksAndDeliveries :
    after (exec (.ackBranch .A) (atA .process id)) (fun t => decide ((t.ep .A).seqSend ≠ ((atA .process id).ep .A).seqSend)) =
      some true ∧
    after (exec (.deliverHalf .A [0x00#8]) (ackSent [0x00#8]))
      (fun t => decide ((t.ep .A).seqRecv ≠ ((ackSent [0x00#8]).ep .A).seqRecv)) = some true := by decide

/-- A clock of eight bits that has wrapped: 200 ticks since tick 150. -/
def wrapped (start now : Nat) : State :=
  { atA .timeout fun x => { x with awaitingAck := true, timerStart := start, lastFrame := some helloFrame } with
    now := now, cfg := { Config.defaults with timeWidth := some 8 } }

theorem witness_AFiniteTimeWidthWraps :
    (wrapped 150 94).cfg.timeWidth = some 8 ∧ ((wrapped 150 94).ep .A).phase = .timeout ∧
    ((wrapped 150 94).ep .A).fault = none ∧ ((wrapped 150 94).ep .A).awaitingAck = true ∧
    ((wrapped 150 94).ep .A).timerStart ≠ 0 ∧ ((wrapped 150 94).ep .A).timerStart < 2 ^ 8 ∧
    (wrapped 150 94).now = (((wrapped 150 94).ep .A).timerStart + 200) % 2 ^ 8 ∧
    200 > 100 * (wrapped 150 94).cfg.ticksPerMs ∧ ((wrapped 150 94).ep .A).lastFrame = some helloFrame ∧
    (wrapped 200 44).now = (((wrapped 200 44).ep .A).timerStart + 100) % 2 ^ 8 ∧
    100 ≤ 100 * (wrapped 200 44).cfg.ticksPerMs := by decide

end Sys2Proof.Tests
end

/-! ## What one operation can do

One inversion of `exec` for the whole family: `Move` lists what an operation can make of one endpoint's record, with the
guards that the invariants need, and `Effect` adds what it can do to the rest of the system. `exec_effect` is the only
place where the meanings of all the operations are opened. -/

section

namespace Sys2Proof.Machine

/-! ### What the deframer gives back -/

/-- The bytes a walk leaves for the receive buffer. -/
def WalkEnd.left : WalkEnd → List Byte
  | .ranOut kept _ => kept
  | .closed _ rest _ => rest

/-- A walk keeps a tail of the bytes it was given: those it has taken, and those to come. -/
theorem walk_left_suffix (r taken ex : List Byte) (log : List Event) :
    (walk taken ex log r).left <:+ taken ++ r := by
  induction taken, ex, log, r using walk.induct with
  | case1 taken ex log => simp [WalkEnd.left]
  | case2 taken ex log b hb =>
    obtain rfl := classOf_eq_esc hb
    simp [walk_esc_last, WalkEnd.left]
  | case3 taken ex log b hb c r ih =>
    obtain rfl := classOf_eq_esc hb
    simpa [walk_esc] using ih
  | case4 taken ex log b r hb =>
    obtain rfl := classOf_eq_stop hb
    rw [walk_stop]
    exact (List.suffix_cons _ r).trans (List.suffix_append taken _)
  | case5 taken ex log b r hb ih =>
    obtain rfl := classOf_eq_start hb
    rw [walk_start]
    exact ih.trans (List.suffix_append taken _)
  | case6 taken ex log b r hb ih =>
    rw [walk_literal _ _ _ _ (isTag_of_classOf_literal hb)]
    simpa using ih

@[simp] theorem classify_rest (ex rest : List Byte) (log : List Event) : (classify ex rest log).rest = rest := by
  unfold classify
  split
  · rfl
  · split
    · rfl
    · split <;> rfl

/-- A classified frame is never the empty sequence (44_destuff_processframe.md R159 to R162). -/
theorem classify_frame_ne_nil {ex rest f : List Byte} {log : List Event}
    (h : (classify ex rest log).res = .frame f) : f ≠ [] := by
  unfold classify at h
  split at h
  · cases h
  · next hne =>
    split at h
    · cases h; exact hne
    · split at h
      · cases h
      · cases h; exact List.cons_ne_nil _ _

/-- Everything `processFrame` can do: it finds no start tag, or it walks from the first one, which begins a tail of the
buffer. -/
theorem processFrame_cases (rb : List Byte) :
    (Config.startTag ∉ rb ∧ processFrame rb = ⟨[], .noFrame, discarded rb⟩) ∨
    (∃ g r, rb = g ++ Config.startTag :: r ∧
      ((∃ kept log, walk [Config.startTag] [] (discarded g) r = .ranOut kept log ∧
          processFrame rb = ⟨kept, .noFrame, log⟩) ∨
        ∃ ex rest log, walk [Config.startTag] [] (discarded g) r = .closed ex rest log ∧
          processFrame rb = classify ex rest log)) := by
  by_cases h : Config.startTag ∈ rb
  · obtain ⟨g, r, rfl, hg⟩ := List.eq_append_cons_of_mem h
    refine .inr ⟨g, r, rfl, ?_⟩
    have hp := processFrame_start g r hg
    cases hw : walk [Config.startTag] [] (discarded g) r with
    | ranOut kept log => rw [hw] at hp; exact .inl ⟨kept, log, rfl, hp⟩
    | closed ex rest log => rw [hw] at hp; exact .inr ⟨ex, rest, log, rfl, hp⟩
  · exact .inl ⟨h, processFrame_garbage rb h⟩

/-- What `processFrame` leaves is a tail of the buffer (20_memory.md R40). -/
theorem processFrame_rest_suffix (rb : List Byte) : (processFrame rb).rest <:+ rb := by
  rcases processFrame_cases rb with ⟨-, h⟩ | ⟨g, r, rfl, h⟩
  · rw [h]; exact List.nil_suffix
  · have hw := (walk_left_suffix r [Config.startTag] [] (discarded g)).trans (List.suffix_append g _)
    rcases h with ⟨kept, log, hk, h⟩ | ⟨ex, rest, log, hk, h⟩ <;> rw [hk] at hw <;> rw [h]
    · exact hw
    · rw [classify_rest]; exact hw

/-- A frame that `processFrame` returns is never the empty sequence. -/
theorem processFrame_frame_ne_nil {rb f : List Byte} (h : (processFrame rb).res = .frame f) : f ≠ [] := by
  rcases processFrame_cases rb with ⟨-, hp⟩ | ⟨g, r, -, ⟨kept, log, -, hp⟩ | ⟨ex, rest, log, -, hp⟩⟩ <;> rw [hp] at h
  · cases h
  · cases h
  · exact classify_frame_ne_nil h

/-! ### What an operation can make of one endpoint -/

/-- What the operation `i`, run in state `s`, can make of endpoint `e`'s record `x`, be `e` the endpoint that `i` acts on or
the other one; `exec_effect` ties it to the model. -/
inductive Move (i : Instr) (s : State) (e : EndpointId) (x : Endpoint) : Endpoint → Prop
  | stays : Move i s e x x
  /-- `processFrame` run by itself, and the duplicate of a bare `deliverHalf`. -/
  | logs (evs : List Event) : Move i s e x (x.logs evs)
  | appPush (bs : List Byte) : Move i s e x { x with sendBuffer := x.sendBuffer ++ bs }
  | receivesBit (b : Bit) : Move i s e x { x with phyBitQueue := x.phyBitQueue ++ [b] }
  | appRetrieve : Move i s e x { x with appBuffer := [] }
  | stopReq : Move i s e x { x with stopReq := true }
  | reset (hi : i = .reset e) : Move i s e x Endpoint.reset
  | overflows : Move i s e x { x with fault := some .bufferOverflow }
  | findsTimerOff (hw : x.awaitingAck = true) (ht : x.timerStart = 0) :
      Move i s e x { x with fault := some .timerNotStarted }
  | isUnregistered (hr : e ∉ s.registered) : Move i s e x { x with fault := some .unregisteredSender }
  /-- A change of phase that loads nothing: `CHK_STOP`, the closed gate of `SEND_NEXT`, an idle `CHK_TIMEOUT`. -/
  | goesTo (p : Phase) (hx : x.phase = .top ∨ x.phase = .send ∨ x.phase = .timeout) (hp : p ≠ .tx) :
      Move i s e x { x with phase := p }
  | drains :
      x.enabledIn .drain → Move i s e x { x with
        phyBitQueue := []
        bitBuffer := (regroup (x.bitBuffer ++ x.phyBitQueue)).2
        receiveBuffer := x.receiveBuffer ++ (regroup (x.bitBuffer ++ x.phyBitQueue)).1
        phase := .process }
  /-- A `processFrame` call goes on. -/
  | scans (rb : List Byte) (evs : List Event) (sc : Scan) (hx : x.enabledIn .process) (hrb : rb <:+ x.receiveBuffer) :
      Move i s e x { x with receiveBuffer := rb, trace := x.trace ++ evs, scan := sc }
  /-- A `processFrame` call ends without a frame. -/
  | parsesNothing (rb : List Byte) (evs : List Event) (hx : x.enabledIn .process) (hrb : rb <:+ x.receiveBuffer) :
      Move i s e x { x with receiveBuffer := rb, trace := x.trace ++ evs, scan := Scan.idle, phase := .timeout }
  /-- A `processFrame` call ends with `[06]`. -/
  | parsesAck (rb : List Byte) (evs : List Event) (hx : x.enabledIn .process) (hrb : rb <:+ x.receiveBuffer) :
      Move i s e x (observeAck { x with receiveBuffer := rb, trace := x.trace ++ evs, scan := Scan.idle })
  /-- A `processFrame` call ends with any other sequence. -/
  | parsesData (rb : List Byte) (evs : List Event) (f : List Byte) (hx : x.enabledIn .process)
      (hrb : rb <:+ x.receiveBuffer) (hf : f ≠ []) :
      Move i s e x (acknowledge f { x with receiveBuffer := rb, trace := x.trace ++ evs, scan := Scan.idle })
  | observesAck (hx : x.canDispatch) : Move i s e x (observeAck x)
  | acknowledges (f : List Byte) (hx : x.canLoadTx) (hf : f ≠ []) : Move i s e x (acknowledge f x)
  | sendsNew (hx : x.enabledIn .send) (hw : x.awaitingAck = false) (hb : x.sendBuffer ≠ []) :
      Move i s e x (loadEncoder (nextDataFrame x) .data { x with sendBuffer := x.sendBuffer.drop Config.maxFrameSize })
  | retransmits (f : List Byte) (hx : x.enabledIn .timeout) (hf : x.lastFrame = some f) :
      Move i s e x (loadEncoder f .retx (x.logs [.retransmit]))
  | loads (f : List Byte) (c : FrameKind) (hi : i = .loadTx e f c) (hx : x.canLoadTx) : Move i s e x (loadEncoder f c x)
  /-- `TX_BIT`, through the medium or out on the port. -/
  | sendsBit (b : Bit) (rest out : List Bit) (hx : x.enabledIn .tx) (hb : x.txShift = b :: rest) :
      Move i s e x { x with txShift := rest, phyTx := out }
  | arms (f : List Byte) (hi : i = .finishFrameSend e f) (hx : x.canArm f) : Move i s e x (armSender s.now f x)
  | delivers (data : List Byte) (hx : x.hasSent .cAck) :
      Move i s e x { x with
        seqRecv := flip x.seqRecv, appBuffer := x.appBuffer ++ data, trace := x.trace ++ [.deliver data] }
  | sentData (hx : x.hasSent .cData) :
      Move i s e x (clearTx .drain (armSender s.now x.txFrame (x.logs [.frameSent .data x.txFrame])))
  | sentRetx (f : List Byte) (hx : x.hasSent .cRetx) (hf : x.lastFrame = some f) :
      Move i s e x (clearTx .top (armSender s.now f (x.logs [.frameSent .retx x.txFrame])))
  /-- The end of an ACK whose sequence is new. -/
  | sentAckDelivers (data : List Byte) (hx : x.hasSent .cAck) :
      Move i s e x (clearTx .timeout { x with
        seqRecv := flip x.seqRecv
        appBuffer := x.appBuffer ++ data
        trace := x.trace ++ [.frameSent .ack x.txFrame, .deliver data] })
  /-- The end of an ACK whose sequence is a duplicate. -/
  | sentAckDuplicate (r : Byte) (hx : x.hasSent .cAck) :
      Move i s e x (clearTx .timeout (x.logs [.frameSent .ack x.txFrame, .duplicate r]))

/-! ### The shared operations as moves -/

section
variable {i : Instr} {s : State} {e : EndpointId} {x : Endpoint}

theorem Move.of_handleParsed {p : Parsed} (hx : x.enabledIn .process) (hrb : p.rest <:+ x.receiveBuffer)
    (hf : ∀ f, p.res = .frame f → f ≠ []) : Move i s e x (handleParsed p x) := by
  rcases handleParsed_cases p x with ⟨-, h⟩ | ⟨f, hres, h⟩ <;> rw [h]
  · exact .parsesNothing _ _ hx hrb
  · rcases dispatch_cases f { x with receiveBuffer := p.rest, trace := x.trace ++ p.log, scan := Scan.idle } with
      ⟨-, hd⟩ | ⟨-, hd⟩ <;> rw [hd]
    · exact .parsesAck _ _ hx hrb
    · exact .parsesData _ _ f hx hrb (hf f hres)

theorem Move.of_continueScan (rb : List Byte) (evs : List Event) (sc : Scan) (hx : x.enabledIn .process)
    (hrb : rb <:+ x.receiveBuffer) :
    Move i s e x (continueScan { x with receiveBuffer := rb, trace := x.trace ++ evs, scan := sc }) := by
  rcases continueScan_cases { x with receiveBuffer := rb, trace := x.trace ++ evs, scan := sc } with
    ⟨-, h⟩ | ⟨-, -, h⟩ | ⟨-, -, h⟩ <;> rw [h]
  · exact .scans rb evs sc hx hrb
  · simpa using Move.parsesNothing (i := i) (s := s) (e := e) [] (evs ++ discarded rb) hx List.nil_suffix
  · exact .parsesNothing rb evs hx hrb

theorem Move.of_scanAdvance (sc : Scan) (hx : x.enabledIn .process) :
    Move i s e x (continueScan { x with scan := sc }) := by
  simpa using Move.of_continueScan (i := i) (s := s) (e := e) x.receiveBuffer [] sc hx (List.suffix_refl _)

theorem Move.of_restartScan (hx : x.enabledIn .process) : Move i s e x (restartScan x) := by
  rw [restartScan_eq]
  exact .of_continueScan _ _ _ hx (List.drop_suffix _ _)

theorem Move.of_takeContent (n : Nat) (b : Byte) (hx : x.enabledIn .process) : Move i s e x (takeContent n b x) := by
  rw [takeContent_eq]
  exact .of_scanAdvance _ hx

theorem Move.of_deliverHalf {f : List Byte} {y : Endpoint} (hx : x.canDeliver f)
    (h : deliverSequence s.cfg f x = .done y) : Move i s e x y := by
  rcases deliverSequence_done h with ⟨data, -, -, rfl⟩ | ⟨r, data, -, -, rfl⟩
  · exact .delivers data hx.1
  · exact .logs _

theorem Move.of_finishAck {y : Endpoint} (hx : x.hasSent .cAck) (h : finishAck s.cfg x = .done y) :
    Move i s e x y := by
  obtain ⟨z, hz, rfl⟩ := finishAck_done h
  rcases deliverSequence_done hz with ⟨data, -, -, rfl⟩ | ⟨r, data, -, -, rfl⟩
  · simpa [Endpoint.logs] using Move.sentAckDelivers (i := i) (s := s) (e := e) data hx
  · simpa [Endpoint.logs] using Move.sentAckDuplicate (i := i) (s := s) (e := e) r hx

theorem finishAck_raised {cfg : Params} {k : ErrorKind} (h : finishAck cfg x = .raised k) : k = .bufferOverflow := by
  unfold finishAck at h
  split at h
  · cases h
  · next hz => cases h; exact (deliverSequence_raised hz).1
  · cases h

end

/-! ### What an operation can do to the system -/

/-- What the operation `i` can do between the states `s` and `t`. -/
structure Effect (i : Instr) (s t : State) : Prop where
  clock : t.now = s.now ∨ ∃ d, i = .timeAdv d ∧ t.now = advance s.cfg s.now d
  cfg : t.cfg = s.cfg
  registered : t.registered = s.registered
  script : t.script = s.script
  tick : t.tick = s.tick
  moves : ∀ e, Move i s e (s.ep e) (t.ep e)

section
variable {i : Instr} {s t : State} {e : EndpointId}

theorem Effect.refl : Effect i s s := ⟨.inl rfl, rfl, rfl, rfl, rfl, fun _ => .stays⟩

/-- Replacing one more record by a move of it. -/
theorem Effect.setEp {x : Endpoint} (h : Effect i s t) (hm : Move i s e (s.ep e) x) : Effect i s (t.setEp e x) where
  clock := by simpa using h.clock
  cfg := by simpa using h.cfg
  registered := by simpa using h.registered
  script := by simpa using h.script
  tick := by simpa using h.tick
  moves e' := by
    rcases eq_or_eq_peer e e' with rfl | rfl
    · simpa using hm
    · simpa using h.moves (peer e)

/-- The returned value is no part of the effect (log 7). -/
theorem Effect.returning {r : Result} {u : State} (h : returning r u = .next t) (hu : Effect i s u) : Effect i s t := by
  obtain rfl := returning_next.1 h
  exact ⟨hu.clock, hu.cfg, hu.registered, hu.script, hu.tick, fun e => by simpa using hu.moves e⟩

theorem Effect.perform {act : Endpoint → Act} (h : perform e s act = .next t)
    (hd : ∀ x, act (s.ep e) = .done x → Move i s e (s.ep e) x)
    (hr : ∀ k, act (s.ep e) = .raised k → Move i s e (s.ep e) { s.ep e with fault := some k }) : Effect i s t := by
  rcases perform_next h with ⟨x, hx, rfl⟩ | ⟨k, hk, rfl⟩
  · exact Effect.refl.setEp (hd x hx)
  · exact Effect.refl.setEp (hr k hk)

/-- An operation that only completes, under one condition. -/
theorem Effect.guarded {c : Endpoint → Prop} [DecidablePred c] {g : Endpoint → Endpoint} {f : Fault}
    (h : Machine.perform e s (fun x => if c x then .done (g x) else .stuck f) = .next t)
    (hm : c (s.ep e) → Move i s e (s.ep e) (g (s.ep e))) : Effect i s t := by
  refine .perform h (fun x hx => ?_) (fun k hk => ?_)
  · split at hx
    · next hc => cases hx; exact hm hc
    · cases hx
  · split at hk <;> cases hk

/-- A frame code (log 9). -/
theorem Effect.consumeFrame {f : List Byte} {res : ParseResult} {evs : List Event}
    (h : Machine.perform e s (consumeFrame f res evs) = .next t) (hf : ∀ f, res = .frame f → f ≠ []) : Effect i s t := by
  refine .perform h (fun x hx => ?_) (fun k hk => ?_)
  · rcases consumeFrame_cases f res evs (s.ep e) with ⟨⟨hp, -⟩, hc⟩ | ⟨-, hc⟩ <;> rw [hc] at hx <;> cases hx
    exact .of_handleParsed hp (List.drop_suffix _ _) hf
  · rcases consumeFrame_cases f res evs (s.ep e) with ⟨-, hc⟩ | ⟨-, hc⟩ <;> rw [hc] at hk <;> cases hk

theorem Effect.takeAck (h : Machine.perform e s takeAck = .next t) : Effect i s t := .guarded h .observesAck

theorem Effect.takeData {f : List Byte} (h : Machine.perform e s (takeData f) = .next t) : Effect i s t := by
  refine .perform h (fun x hx => ?_) (fun k hk => ?_)
  · rcases takeData_cases f (s.ep e) with ⟨hc, hf, hd⟩ | ⟨-, -, hd⟩ | ⟨-, hd⟩ <;> rw [hd] at hx <;> cases hx
    exact .acknowledges f hc hf
  · rcases takeData_cases f (s.ep e) with ⟨-, -, hd⟩ | ⟨-, -, hd⟩ | ⟨-, hd⟩ <;> rw [hd] at hk <;> cases hk

/-- A transmission of one bit, by a sender whose record makes a move of its own. -/
theorem Effect.transmitFrom {b draw : Bit} {sent : Endpoint} (hm : Move i s e (s.ep e) sent) :
    Effect i s (transmitFrom e b draw sent s) := by
  rcases transmitFrom_cases e b draw sent s with ⟨-, -, h⟩ | ⟨-, -, h⟩ | ⟨-, -, h⟩ | ⟨hr, h⟩ <;> rw [h]
  · exact (Effect.refl.setEp hm).setEp (.receivesBit _)
  · exact Effect.refl.setEp .overflows
  · exact Effect.refl.setEp hm
  · exact Effect.refl.setEp (.isUnregistered hr)

theorem effect_startHunt (h : execStartHunt e s = .next t) : Effect i s t :=
  .guarded h fun hp => .of_restartScan hp.1

theorem effect_garbageHunt {b : Byte} (h : execGarbageHunt e b s = .next t) : Effect i s t :=
  .guarded h fun hp => .of_scanAdvance _ hp.1.1

theorem effect_start (h : execStart e s = .next t) : Effect i s t :=
  .guarded h fun hp => .of_restartScan hp.1

theorem effect_stop (h : execStop e s = .next t) : Effect i s t :=
  .guarded h fun hp => .of_handleParsed hp.1 (by rw [classify_rest]; exact List.drop_suffix _ _)
    fun _ => classify_frame_ne_nil

theorem effect_esc (h : execEsc e s = .next t) : Effect i s t :=
  .guarded h fun hp => .of_scanAdvance _ hp.1

theorem effect_literal {b : Byte} (h : execLiteral e b s = .next t) : Effect i s t :=
  .guarded h fun hp => .of_takeContent 1 b hp.1.1

theorem effect_literalEscaped {b : Byte} (h : execLiteralEscaped e b s = .next t) : Effect i s t :=
  .guarded h fun hp => .of_takeContent 1 b hp.1

theorem effect_escPair {b : Byte} (h : execEscPair e b s = .next t) : Effect i s t :=
  .guarded h fun hp => .of_takeContent 2 b hp.1.1

theorem effect_stopReq (h : execStopReq e s = .next t) : Effect i s t :=
  .perform h (fun x hx => by cases hx; exact .stopReq) (fun k hk => by cases hk)

theorem effect_loadTx {f : List Byte} {c : FrameKind} (h : execLoadTx e f c s = .next t) :
    Effect (.loadTx e f c) s t :=
  .guarded h fun hp => .loads f c rfl hp

theorem effect_finishFrameSend {f : List Byte} (h : execFinishFrameSend e f s = .next t) :
    Effect (.finishFrameSend e f) s t :=
  .guarded h fun hp => .arms f rfl hp

theorem effect_assemble {l : List Bit} (h : execAssemble l s = .next t) : Effect i s t := by
  unfold execAssemble at h
  split at h
  · exact .returning h .refl
  · cases h

theorem effect_phyRx {b : Bit} (h : execPhyRx e b s = .next t) : Effect i s t := by
  refine .perform h (fun x hx => ?_) (fun k hk => ?_)
  · rcases receiveBit_cases s.cfg b (s.ep e) with ⟨-, hc⟩ | ⟨-, hc⟩ <;> rw [hc] at hx <;> cases hx
    exact .receivesBit b
  · rcases receiveBit_cases s.cfg b (s.ep e) with ⟨-, hc⟩ | ⟨-, hc⟩ <;> rw [hc] at hk <;> cases hk
    exact .overflows

theorem effect_appPush {bs : List Byte} (h : execAppPush e bs s = .next t) : Effect i s t := by
  refine .perform h (fun x hx => ?_) (fun k hk => ?_)
  · split at hx <;> cases hx
    exact .appPush bs
  · split at hk <;> cases hk
    exact .overflows

theorem effect_drain (h : execDrain e s = .next t) : Effect i s t := by
  refine .perform h (fun x hx => ?_) (fun k hk => ?_)
  · split at hx
    · next hp => dsimp only at hx; split at hx <;> cases hx; exact .drains hp
    · cases hx
  · split at hk
    · dsimp only at hk; split at hk <;> cases hk; exact .overflows
    · cases hk

theorem effect_sendNext (h : execSendNext e s = .next t) : Effect i s t := by
  refine .perform h (fun x hx => ?_) (fun k hk => ?_)
  · split at hx
    · next hp =>
      split at hx <;> cases hx
      · exact .goesTo _ (.inr (.inl hp.1)) (by decide)
      · next hn =>
        obtain ⟨hw, hb⟩ := not_or.1 hn
        exact .sendsNew hp (by simpa using hw) hb
    · cases hx
  · split at hk
    · split at hk <;> cases hk
    · cases hk

theorem effect_process (h : execProcess e s = .next t) : Effect i s t := by
  refine .perform h (fun x hx => ?_) (fun k hk => ?_)
  · split at hx
    · next hp =>
      split at hx <;> cases hx
      · simpa using Move.parsesNothing (i := i) (s := s) (e := e) _ [] hp (List.suffix_refl _)
      · exact .of_handleParsed hp (processFrame_rest_suffix _) fun _ => processFrame_frame_ne_nil
    · cases hx
  · split at hk
    · split at hk <;> cases hk
    · cases hk

theorem effect_chkTimeout (h : execChkTimeout e s = .next t) : Effect i s t := by
  refine .perform h (fun x hx => ?_) (fun k hk => ?_)
  · split at hx
    · next hp =>
      have idle : Move i s e (s.ep e) { s.ep e with phase := .top } := .goesTo _ (.inr (.inr hp.1)) (by decide)
      split at hx
      · cases hx; exact idle
      · split at hx
        · cases hx
        · split at hx
          · split at hx
            · next f hf => cases hx; exact .retransmits f hp hf
            · cases hx
          · cases hx; exact idle
    · cases hx
  · split at hk
    · split at hk
      · cases hk
      · next hw =>
        split at hk
        · next ht => cases hk; exact .findsTimerOff (by simpa using hw) ht
        · split at hk
          · split at hk <;> cases hk
          · cases hk
    · cases hk

theorem effect_txDone (h : execTxDone e s = .next t) : Effect i s t := by
  refine .perform h (fun x hx => ?_) (fun k hk => ?_)
  · split at hx
    · next hp =>
      obtain ⟨hp, hb⟩ := hp
      split at hx
      · next hc => cases hx; exact .sentData ⟨hp, hb, hc⟩
      · next hc => exact .of_finishAck ⟨hp, hb, hc⟩ hx
      · next hc =>
        split at hx
        · next f hf => cases hx; exact .sentRetx f ⟨hp, hb, hc⟩ hf
        · cases hx
      · cases hx
    · cases hx
  · split at hk
    · split at hk
      · cases hk
      · obtain rfl := finishAck_raised hk; exact .overflows
      · split at hk <;> cases hk
      · cases hk
    · cases hk

theorem effect_txBit {draw : Bit} (h : execTxBit e draw s = .next t) : Effect i s t := by
  unfold execTxBit at h
  split at h
  · cases h
  · next b rest hb =>
    split at h
    · next hp =>
      split at h <;> cases h
      · exact Effect.refl.setEp (.sendsBit b rest _ hp hb)
      · exact .transmitFrom (.sendsBit b rest _ hp hb)
    · cases h

theorem effect_deliverHalf {f : List Byte} (h : execDeliverHalf e f s = .next t) : Effect i s t := by
  refine .perform h (fun x hx => ?_) (fun k hk => ?_)
  · split at hx
    · next hp => exact .of_deliverHalf hp hx
    · cases hx
  · split at hk
    · obtain ⟨rfl, -⟩ := deliverSequence_raised hk; exact .overflows
    · cases hk

theorem effect_finishFrameReceive {f : List Byte} (h : execFinishFrameReceive e f s = .next t) : Effect i s t := by
  unfold execFinishFrameReceive at h
  by_cases hf : f = [Config.ackTag]
  · simp only [if_pos hf] at h; exact .takeAck h
  · simp only [if_neg hf] at h; exact .takeData h

theorem effect_chkStop (h : execChkStop e s = .next t) : Effect i s t :=
  .guarded h fun hp => .goesTo _ (.inl hp.1) (by split <;> decide)

end

/-- Everything an operation can do when it completes: to the shared part of the system, and to each endpoint. -/
theorem exec_effect {i : Instr} {s t : State} (h : exec i s = .next t) : Effect i s t := by
  cases i with
  | startHunt e => exact effect_startHunt h
  | garbageHunt e b => exact effect_garbageHunt h
  | start e => exact effect_start h
  | stop e => exact effect_stop h
  | esc e => exact effect_esc h
  | literal e b => exact effect_literal h
  | literalEscaped e b => exact effect_literalEscaped h
  | ackTagByte e => exact .takeAck h
  | seqByte q => exact .returning h .refl
  | parityByte p => exact .returning h .refl
  | escPair e b => exact effect_escPair h
  | stuff7B => exact .returning h .refl
  | stuff7D => exact .returning h .refl
  | stuff5C => exact .returning h .refl
  | ackFrameCode e => exact .consumeFrame h (by simp)
  | dataFrame e d q => exact .consumeFrame h (by simp)
  | emptyFrame e => exact .consumeFrame h (by simp)
  | oneByteFrame e b => exact .consumeFrame h (by simp)
  | chkStop e => exact effect_chkStop h
  | sendNext e => exact effect_sendNext h
  | loadTx e f c => exact effect_loadTx h
  | txBit e draw => exact effect_txBit h
  | txDone e => exact effect_txDone h
  | drain e => exact effect_drain h
  | process e => exact effect_process h
  | chkTimeout e => exact effect_chkTimeout h
  | appPush e bs => exact effect_appPush h
  | phyRx e b => exact effect_phyRx h
  | appRetrieve e => exact .returning h (Effect.refl.setEp .appRetrieve)
  | stopReq e => exact effect_stopReq h
  | timeAdv d => cases h; exact ⟨.inr ⟨d, rfl, rfl⟩, rfl, rfl, rfl, rfl, fun e => by simpa using .stays⟩
  | reset e => cases h; exact Effect.refl.setEp (.reset rfl)
  | serialize f => exact .returning h .refl
  | assemble l => exact effect_assemble h
  | parity l => exact .returning h .refl
  | stuff b => exact .returning h .refl
  | stuffAll l => exact .returning h .refl
  | createFrame d q => exact .returning h .refl
  | ackFrame => exact .returning h .refl
  | processFrame e rb => exact .returning h (Effect.refl.setEp (.logs _))
  | finishFrameSend e f => exact effect_finishFrameSend h
  | finishFrameReceive e f => exact effect_finishFrameReceive h
  | ackBranch e => exact .takeAck h
  | dataBranch e f => exact .takeData h
  | deliverHalf e f => exact effect_deliverHalf h
  | transmit e b draw => cases h; exact .transmitFrom .stays
  | deliverPerfect b => exact .returning h .refl
  | deliverLowNoise b draw => exact .returning h .refl

end Sys2Proof.Machine
end

/-! ## What every operation keeps: the clock, the sticky flags, the trace and the sequence bits -/

section

namespace Sys2Proof.Machine

/-- With unbounded time no operation sets the clock back (42_parity.md R131). -/
theorem Effect.now_le {i : Instr} {s t : State} (h : Effect i s t) (hu : s.cfg.timeWidth = none) : s.now ≤ t.now := by
  rcases h.clock with hn | ⟨d, -, hn⟩
  · exact hn.ge
  · simp [hn, advance, hu]

/-- Settles O55: of the shared part of the system an operation moves the clock alone, and only `TIME_ADV` does. -/
theorem onlyTimeAdvMovesTheClock : Obligations.OnlyTimeAdvMovesTheClock := by
  intro i s t h
  have he := exec_effect h
  refine ⟨fun hi => ?_, he.now_le, he.cfg, he.registered, he.script, he.tick⟩
  rcases he.clock with hnow | ⟨d, hd, -⟩
  · exact hnow
  · exact absurd hd (hi d)

section
variable {i : Instr} {s : State} {e : EndpointId} {x y : Endpoint}

/-- A move writes another fault over a fault, or leaves it (10_state.md R27). -/
theorem Move.fault_sticky (m : Move i s e x y) (hi : i ≠ .reset e) (h : x.fault ≠ none) : y.fault ≠ none := by
  cases m with
  | reset hr => exact absurd hr hi
  | overflows | findsTimerOff | isUnregistered => exact Option.some_ne_none _
  | _ => exact h

theorem Move.stopReq_sticky (m : Move i s e x y) (hi : i ≠ .reset e) (h : x.stopReq = true) : y.stopReq = true := by
  cases m with
  | reset hr => exact absurd hr hi
  | stopReq => rfl
  | _ => exact h

/-- Settles O56, from the two flags' behaviour in a move. -/
theorem faultAndStopRequestAreSticky : Obligations.FaultAndStopRequestAreSticky := fun _ _ _ e h hi =>
  have m := (exec_effect h).moves e
  ⟨m.fault_sticky hi, m.stopReq_sticky hi⟩

/-- A move that logs appends to the trace; every other move leaves it (10_state.md R24). -/
theorem Move.trace_prefix (m : Move i s e x y) (hi : i ≠ .reset e) : x.trace <+: y.trace := by
  cases m with
  | reset hr => exact absurd hr hi
  | parsesAck => exact (List.prefix_append _ _).trans (List.prefix_append _ _)
  | logs | scans | parsesNothing | parsesData | observesAck | retransmits | delivers => exact List.prefix_append _ _
  | sentData | sentRetx | sentAckDelivers | sentAckDuplicate => exact List.prefix_append _ _
  | _ => exact List.prefix_refl _

/-- Settles O58, from what a move does to the trace. -/
theorem theTraceIsAppendOnly : Obligations.TheTraceIsAppendOnly := fun _ _ _ e h hi =>
  ((exec_effect h).moves e).trace_prefix hi

/-- Only the observing of an ACK moves `seqSend` (10_state.md R21). -/
theorem Move.seqSend_cases (m : Move i s e x y) (hi : i ≠ .reset e) :
    y.seqSend = x.seqSend ∨ ∃ z, y = observeAck z := by
  cases m with
  | reset hr => exact absurd hr hi
  | parsesAck | observesAck => exact .inr ⟨_, rfl⟩
  | _ => exact .inl rfl

/-- Only a delivery moves `seqRecv`, after the last bit of the ACK (10_state.md R22, 20_memory.md R56). -/
theorem Move.seqRecv_cases (m : Move i s e x y) (hi : i ≠ .reset e) :
    y.seqRecv = x.seqRecv ∨
      ∃ data, y.appBuffer = x.appBuffer ++ data ∧ y.trace.getLast? = some (.deliver data) ∧ x.hasSent .cAck := by
  cases m with
  | reset hr => exact absurd hr hi
  | delivers data hx => exact .inr ⟨data, rfl, List.getLast?_concat, hx⟩
  | sentAckDelivers data hx => exact .inr ⟨data, rfl, by simp, hx⟩
  | _ => exact .inl rfl

/-- Settles O59, from the two bits' behaviour in a move. -/
theorem sequenceBitsFlipOnlyOnAcksAndDeliveries : Obligations.SequenceBitsFlipOnlyOnAcksAndDeliveries := by
  intro i s t e h hi
  have m := (exec_effect h).moves e
  refine ⟨fun hne => ?_, fun hne => ?_⟩
  · obtain ⟨z, hz⟩ := (m.seqSend_cases hi).resolve_left hne
    simp [hz]
  · obtain ⟨data, happ, htr, ⟨hphase, -⟩, hshift, hcont⟩ := (m.seqRecv_cases hi).resolve_left hne
    exact ⟨data, happ, htr, hphase, hcont, hshift⟩

end

end Sys2Proof.Machine
end

/-! ## What one step fetches -/

section

namespace Sys2Proof.Machine

/-- What the decoder reads at a position is a code of that position (30_encoding.md R61). -/
theorem decode_positionOf {p : Position} {bs : List Byte} {i : Instr} (h : decode p bs = .ok i) :
    positionOf i = some p := by
  unfold decode at h
  split at h
  · next e b =>
    cases h
    unfold decodeHunting
    split <;> rfl
  · next e b =>
    cases h
    unfold decodeUnescaped
    split <;> rfl
  · cases h; rfl
  · split at h <;> cases h; rfl
  · split at h <;> cases h; rfl
  · split at h <;> cases h; rfl
  · split at h <;> cases h; rfl
  · unfold decodeStuffedPair at h
    split at h
    · split at h <;> cases h <;> rfl
    · cases h
  · unfold decodeFrame at h
    split at h
    · cases h
      unfold frameCandidate
      split
      · rfl
      · rfl
      · split <;> rfl
      · rfl
    · cases h
  · cases h

/-- The two bare helpers have no wire code (30_encoding.md R73). -/
theorem keepsSender_of_decode {p : Position} {bs : List Byte} {i : Instr} (h : decode p bs = .ok i) :
    Line.keepsSender (.op i) = true := by
  have hp := decode_positionOf h
  cases i with
  | loadTx => cases hp
  | finishFrameSend => cases hp
  | _ => rfl

/-- The event loops run neither of the two bare helpers, nor an operation with operands of its own. -/
theorem loopOperation_some {e : EndpointId} {draw : Bit} {x : Endpoint} {i : Instr}
    (h : loopOperation e draw x = some i) : i.wf = true ∧ Line.keepsSender (.op i) = true := by
  unfold loopOperation at h
  split at h
  · split at h
    case h_3 => split at h <;> cases h <;> exact ⟨rfl, rfl⟩
    case h_7 => cases h
    all_goals cases h; exact ⟨rfl, rfl⟩
  · cases h

theorem unscripted_some {s : State} {i : Instr} (h : unscripted s = some i) :
    i.wf = true ∧ Line.keepsSender (.op i) = true := by
  unfold unscripted at h
  dsimp only at h
  split at h
  · next hl => cases h; exact loopOperation_some hl
  · exact loopOperation_some h

theorem admitLine_run {i j : Instr} {s u : State} (h : admitLine i s = .run j u) : i.wf = true ∧ j = i ∧ u = s := by
  rcases admitLine_cases i s with ⟨hw, -, ha⟩ | ⟨-, ha⟩ | ⟨-, -, ha⟩ <;> rw [ha] at h <;> cases h
  exact ⟨hw, rfl, rfl⟩

/-- What a script line gives to run: its well-formed operation, in the state given. -/
theorem fetchLine_run {l : Line} {i : Instr} {s u : State} (h : fetchLine l s = .run i u) :
    i.wf = true ∧ u = s ∧ (Line.keepsSender l = true → Line.keepsSender (.op i) = true) := by
  cases l with
  | op j =>
    obtain ⟨hw, rfl, rfl⟩ := admitLine_run h
    exact ⟨hw, rfl, id⟩
  | code p bs =>
    unfold fetchLine at h
    dsimp only at h
    split at h
    · next j hd =>
      obtain ⟨hw, rfl, rfl⟩ := admitLine_run h
      exact ⟨hw, rfl, fun _ => keepsSender_of_decode hd⟩
    · cases h

/-- What the fetch gives to run: a well-formed operation, in a state that differs in the script, of which lines may have
gone, and in the free values' counter. -/
theorem fetch_run {s u : State} {i : Instr} (h : fetch s = .run i u) :
    i.wf = true ∧ (∃ script tick, u = { s with script := script, tick := tick } ∧ ∀ l ∈ script, l ∈ s.script) ∧
      ((∀ l ∈ s.script, Line.keepsSender l = true) → Line.keepsSender (.op i) = true) := by
  unfold fetch at h
  split at h
  · next l rest hs =>
    obtain ⟨hw, rfl, hk⟩ := fetchLine_run h
    refine ⟨hw, ⟨rest, s.tick, rfl, fun l' hl' => ?_⟩, fun hall => hk (hall l ?_)⟩
    · rw [hs]; exact List.mem_cons_of_mem l hl'
    · rw [hs]; exact List.mem_cons_self
  · split at h
    · next j hj =>
      cases h
      obtain ⟨hw, hk⟩ := unscripted_some hj
      exact ⟨hw, ⟨s.script, s.tick + 1, rfl, fun _ => id⟩, fun _ => hk⟩
    · cases h

/-- What a step that goes on is: a fetch, and the effect of the operation fetched. -/
theorem step_effect {s t : State} (h : step s = .next t) :
    ∃ i u, fetch s = .run i u ∧ Effect i u t := by
  unfold step at h
  split at h
  · next i u hf => exact ⟨i, u, hf, exec_effect h⟩
  · cases h
  · cases h

end Sys2Proof.Machine
end

/-! ## The system invariant -/

section

namespace Sys2Proof.Machine

theorem length_stuff_pos (b : Byte) : 1 ≤ (stuff b).length := by
  unfold stuff
  split <;> simp

/-- A built frame has its two tags and at least the sequence byte between them. -/
theorem three_le_length_createFrame (d : List Byte) (q : Bit) : 3 ≤ (createFrame d q).length := by
  have := length_stuff_pos (zext8 q)
  simp [createFrame_eq, stuffAll_append, stuffAll_cons]
  omega

section
variable {i : Instr} {s : State} {e : EndpointId} {now : Nat} {x y : Endpoint}

theorem Endpoint.Inv.mono {later : Nat} (hx : x.Inv now) (h : now ≤ later) : x.Inv later :=
  { hx with timer := hx.timer.trans h }

theorem Endpoint.reset_inv : Endpoint.reset.Inv now where
  sender := by simp [Endpoint.senderConsistent, Endpoint.timerRunning, Endpoint.reset]
  timer := Nat.zero_le _
  partialByte := Nat.zero_le _
  encoder := ⟨fun _ => ⟨rfl, rfl, rfl, rfl⟩, nofun⟩
  frameSize := ⟨nofun, nofun⟩
  scan _ := rfl
  noTimerFault := nofun
  noSenderFault := nofun

theorem Endpoint.Inv.observeAck (hx : x.Inv now) (hp : x.phase ≠ .tx) (hs : x.scan = Scan.idle) :
    (observeAck x).Inv now :=
  { hx with
    sender := by simp [Endpoint.senderConsistent, Endpoint.timerRunning]
    timer := Nat.zero_le _
    encoder := ⟨fun _ => hx.encoder.1 hp, nofun⟩
    frameSize := ⟨nofun, nofun⟩
    scan := fun _ => hs }

theorem Endpoint.Inv.loadEncoder {f : List Byte} (c : FrameKind) (hx : x.Inv now) (hf : 3 ≤ f.length)
    (hs : x.scan = Scan.idle) : (loadEncoder f c x).Inv now :=
  { hx with
    encoder := ⟨fun h => absurd rfl h, fun _ => ⟨by cases c <;> nofun, List.suffix_refl _⟩⟩
    frameSize := ⟨fun _ => hf, hx.frameSize.2⟩
    scan := fun _ => hs }

/-- An acknowledgement loads the encoder, and keeps the sequence to deliver beside it. -/
theorem Endpoint.Inv.acknowledge (f : List Byte) (hx : x.Inv now) (hs : x.scan = Scan.idle) :
    (acknowledge f x).Inv now :=
  have hl := hx.loadEncoder (f := ackFrame) .ack (by decide) hs
  { hl with encoder := ⟨fun h => absurd rfl h, hl.encoder.2⟩ }

theorem Endpoint.Inv.armSender {f : List Byte} (hx : x.Inv now) (hnow : 1 ≤ now) (hf : 3 ≤ f.length) :
    (armSender now f x).Inv now :=
  { hx with
    sender := by simp [Endpoint.senderConsistent, Endpoint.timerRunning, Nat.one_le_iff_ne_zero.1 hnow]
    timer := le_refl now
    frameSize := ⟨hx.frameSize.1, fun g hg => by cases hg; exact hf⟩ }

/-- The end of a transmission, once the last bit has gone. -/
theorem Endpoint.Inv.clearTx {p : Phase} (hx : x.Inv now) (hp : p ≠ .tx) (htx : x.phase = .tx)
    (hb : x.txShift = []) : (clearTx p x).Inv now :=
  { hx with
    encoder := ⟨fun _ => ⟨rfl, hb, rfl, rfl⟩, fun h => absurd h hp⟩
    frameSize := ⟨fun h => absurd h hp, hx.frameSize.2⟩
    scan := fun _ => hx.scan (by rw [htx]; decide) }

/-- A move from one phase that loads nothing to another. -/
theorem Endpoint.Inv.goesTo {p : Phase} (hx : x.Inv now) (hp : p ≠ .tx) (htx : x.phase ≠ .tx)
    (hs : x.scan = Scan.idle) : Endpoint.Inv now { x with phase := p } :=
  { hx with
    encoder := ⟨fun _ => hx.encoder.1 htx, fun h => absurd h hp⟩
    frameSize := ⟨fun h => absurd h hp, hx.frameSize.2⟩
    scan := fun _ => hs }

/-- A pass over the receive buffer of an endpoint in `P_PROCESS`. -/
theorem Endpoint.Inv.scans (hx : x.Inv now) (hp : x.phase = .process) (rb : List Byte) (evs : List Event) (sc : Scan) :
    Endpoint.Inv now { x with receiveBuffer := rb, trace := x.trace ++ evs, scan := sc } :=
  { hx with scan := fun h => absurd hp h }

/-- The frames that may be armed have the bytes of a transmission. -/
theorem Endpoint.Inv.three_le_of_canArm {f : List Byte} (hx : x.Inv now) (h : x.canArm f) : 3 ≤ f.length := by
  rcases h with ⟨⟨⟨htx, -⟩, -⟩, rfl⟩ | ⟨-, hf⟩
  · exact hx.frameSize.1 htx
  · exact hx.frameSize.2 f hf

/-- Every move of a well-formed operation keeps the endpoint's invariant, on a booted medium. -/
theorem Move.inv (m : Move i s e x y) (hwf : i.wf = true) (hnow : 1 ≤ s.now) (hreg : e ∈ s.registered)
    (hx : x.Inv s.now) : y.Inv s.now := by
  cases m with
  | stays => exact hx
  | logs | appPush | receivesBit | appRetrieve | stopReq | delivers => exact { hx with }
  | reset => exact Endpoint.reset_inv
  | overflows => exact { hx with noTimerFault := nofun, noSenderFault := nofun }
  | findsTimerOff hw ht =>
    have := hx.sender.2.2 (by simp [Endpoint.timerRunning, ht])
    rw [hw] at this
    cases this
  | isUnregistered hr => exact absurd hreg hr
  | goesTo p hp hq =>
    have htx : x.phase ≠ .tx := by rcases hp with h | h | h <;> rw [h] <;> decide
    have hpr : x.phase ≠ .process := by rcases hp with h | h | h <;> rw [h] <;> decide
    exact hx.goesTo hq htx (hx.scan hpr)
  | drains hp =>
    obtain ⟨-, hshort, -⟩ := regroup_spec (x.bitBuffer ++ x.phyBitQueue)
    have htx : x.phase ≠ .tx := by rw [hp.1]; decide
    have hg := hx.goesTo (p := .process) (by decide) htx (hx.scan (by rw [hp.1]; decide))
    exact { hg with partialByte := Nat.le_of_lt_succ hshort }
  | scans rb evs sc hp => exact hx.scans hp.1 rb evs sc
  | parsesNothing rb evs hp => exact (hx.scans hp.1 rb evs Scan.idle).goesTo (by decide) (by simp [hp.1]) rfl
  | parsesAck rb evs hp => exact (hx.scans hp.1 rb evs Scan.idle).observeAck (by simp [hp.1]) rfl
  | parsesData rb evs f hp => exact (hx.scans hp.1 rb evs Scan.idle).acknowledge f rfl
  | observesAck hp => exact hx.observeAck hp.2.1 hp.2.2
  | acknowledges f hp => exact hx.acknowledge f hp.2.2
  | sendsNew hp =>
    have hb : Endpoint.Inv s.now { x with sendBuffer := x.sendBuffer.drop Config.maxFrameSize } := { hx with }
    exact hb.loadEncoder .data (three_le_length_createFrame _ _) (hx.scan (by rw [hp.1]; decide))
  | retransmits f hp hf =>
    have hb : (x.logs [.retransmit]).Inv s.now := { hx with }
    exact hb.loadEncoder .retx (hx.frameSize.2 f hf) (hx.scan (by rw [hp.1]; decide))
  | loads f c hi hp =>
    have hf : 3 ≤ f.length := by simpa [hi, Instr.wf] using hwf
    exact hx.loadEncoder c hf hp.2.2
  | sendsBit b rest out hp hb =>
    have hsuf : rest <:+ serialize x.txFrame :=
      (List.suffix_cons b rest).trans (hb ▸ (hx.encoder.2 hp.1).2)
    exact { hx with encoder := ⟨fun h => absurd hp.1 h, fun h => ⟨(hx.encoder.2 h).1, hsuf⟩⟩ }
  | arms f hi hp => exact hx.armSender hnow (hx.three_le_of_canArm hp)
  | sentData hp =>
    have hb : (x.logs [.frameSent .data x.txFrame]).Inv s.now := { hx with }
    exact (hb.armSender hnow (hx.frameSize.1 hp.1.1)).clearTx (by decide) hp.1.1 hp.2.1
  | sentRetx f hp hf =>
    have hb : (x.logs [.frameSent .retx x.txFrame]).Inv s.now := { hx with }
    exact (hb.armSender hnow (hx.frameSize.2 f hf)).clearTx (by decide) hp.1.1 hp.2.1
  | sentAckDelivers data hp =>
    have hb : Endpoint.Inv s.now { x with
        seqRecv := flip x.seqRecv
        appBuffer := x.appBuffer ++ data
        trace := x.trace ++ [.frameSent .ack x.txFrame, .deliver data] } := { hx with }
    exact hb.clearTx (by decide) hp.1.1 hp.2.1
  | sentAckDuplicate r hp =>
    have hb : (x.logs [.frameSent .ack x.txFrame, .duplicate r]).Inv s.now := { hx with }
    exact hb.clearTx (by decide) hp.1.1 hp.2.1

end

section
variable {i : Instr} {s t : State}

/-- The endpoints' invariant, carried to the system with the clock. -/
theorem Effect.inv (h : Effect i s t) (hwf : i.wf = true) (hs : s.Inv) : t.Inv where
  unbounded := h.cfg ▸ hs.unbounded
  clock := hs.clock.trans (h.now_le hs.unbounded)
  boot := h.registered ▸ hs.boot
  endpoints e := ((h.moves e).inv hwf hs.clock (hs.boot e) (hs.endpoints e)).mono (h.now_le hs.unbounded)

/-- The invariant does not speak of the script and of the free values' counter. -/
theorem State.Inv.reschedule (hs : s.Inv) (script : List Line) (tick : Nat) :
    ({ s with script := script, tick := tick } : State).Inv :=
  { hs with endpoints := fun e => by cases e; exacts [hs.endpoints .A, hs.endpoints .B] }

/-- Settles O8: the fetch touches the schedule only, and every move keeps `Endpoint.Inv`. -/
theorem everyStepKeepsTheInvariant : Obligations.EveryStepKeepsTheInvariant := by
  intro s t hs h
  obtain ⟨i, u, hf, he⟩ := step_effect h
  obtain ⟨hwf, ⟨script, tick, rfl, -⟩, -⟩ := fetch_run hf
  exact he.inv hwf (hs.reschedule script tick)

end

end Sys2Proof.Machine
end

/-! ## The frame invariant -/

section

namespace Sys2Proof.Machine

section
variable {i : Instr} {s t : State} {e : EndpointId} {x y : Endpoint}

/-- Outside `P_TX` only the stored frame counts. -/
theorem Endpoint.Frames.of_not_tx (hp : x.phase ≠ .tx) (hs : ∀ f, x.lastFrame = some f → IsDataFrame x.seqSend f) :
    x.Frames where
  stored := hs
  data h := absurd h hp
  ack h := absurd h hp
  retx h := absurd h hp

theorem Endpoint.reset_frames : Endpoint.reset.Frames := .of_not_tx (by decide) nofun

theorem observeAck_frames (x : Endpoint) : (observeAck x).Frames := .of_not_tx (by simp) nofun

theorem Endpoint.Frames.acknowledge {f : List Byte} (hx : x.Frames) (hf : f ≠ []) : (acknowledge f x).Frames where
  stored := hx.stored
  data _ h := by cases h
  ack _ _ := ⟨rfl, hf⟩
  retx _ h := by cases h

/-- Arming the sender with a conforming frame, where its transmission ends (45_par_fsm.md R171). -/
theorem armSender_clearTx_frames {f : List Byte} {p : Phase} (now : Nat) (hf : IsDataFrame x.seqSend f) (hp : p ≠ .tx) :
    (clearTx p (armSender now f x)).Frames :=
  .of_not_tx hp fun g hg => by cases hg; exact hf

/-- What `SEND_NEXT` builds from a non-empty `sendBuffer` is a conforming data frame (40_event_loop.md R92). -/
theorem isDataFrame_nextDataFrame (h : x.sendBuffer ≠ []) : IsDataFrame x.seqSend (nextDataFrame x) := by
  have hpos := List.length_pos_iff.2 h
  refine ⟨x.sendBuffer.take Config.maxFrameSize, ?_, ?_, rfl⟩ <;> rw [List.length_take]
  · exact Nat.le_min.2 ⟨by decide, hpos⟩
  · exact Nat.min_le_left _ _

/-- Every move of an operation but the two bare helpers keeps what the frames are. -/
theorem Move.frames (m : Move i s e x y) (hi : Line.keepsSender (.op i) = true) (hx : x.Frames) : y.Frames := by
  cases m with
  | stays => exact hx
  | logs | appPush | receivesBit | appRetrieve | stopReq | delivers => exact { hx with }
  | overflows | findsTimerOff | isUnregistered | scans | sendsBit => exact { hx with }
  | reset => exact Endpoint.reset_frames
  | goesTo p hp hq => exact .of_not_tx hq hx.stored
  | drains => exact .of_not_tx nofun hx.stored
  | parsesNothing => exact .of_not_tx nofun hx.stored
  | parsesAck | observesAck => exact observeAck_frames _
  | parsesData rb evs f hp hrb hf =>
    have hb : Endpoint.Frames { x with receiveBuffer := rb, trace := x.trace ++ evs, scan := Scan.idle } := { hx with }
    exact hb.acknowledge hf
  | acknowledges f hp hf => exact hx.acknowledge hf
  | sendsNew hp hw hb =>
    exact ⟨hx.stored, fun _ _ => ⟨isDataFrame_nextDataFrame hb, hw⟩, fun _ h => (by cases h), fun _ h => (by cases h)⟩
  | retransmits f hp hf => exact ⟨hx.stored, fun _ h => (by cases h), fun _ h => (by cases h), fun _ _ => hf⟩
  | loads f c hl => rw [hl] at hi; cases hi
  | arms f hl => rw [hl] at hi; cases hi
  | sentData hp => exact armSender_clearTx_frames s.now (hx.data hp.1.1 hp.2.2).1 (by decide)
  | sentRetx f hp hf => exact armSender_clearTx_frames s.now (hx.stored f hf) (by decide)
  | sentAckDelivers | sentAckDuplicate => exact .of_not_tx nofun hx.stored

/-- Settles O9: beside O8, every move but those of the two bare helpers, which no line of the script is, keeps
`Endpoint.Frames`. -/
theorem everyStepKeepsTheFrameInvariant : Obligations.EveryStepKeepsTheFrameInvariant := by
  intro s t hs h
  obtain ⟨i, u, hf, he⟩ := step_effect h
  obtain ⟨-, ⟨script, tick, rfl, hsub⟩, hk⟩ := fetch_run hf
  refine ⟨everyStepKeepsTheInvariant s t hs.inv h, fun l hl => ?_, fun e => ?_⟩
  · rw [he.script] at hl
    exact hs.lines l (hsub l hl)
  · have hx : (({ s with script := script, tick := tick } : State).ep e).Frames := by
      cases e
      exacts [hs.frames .A, hs.frames .B]
    exact (he.moves e).frames (hk hs.lines) hx

end

/-- The booted system, with unbounded time and a clock that has started. -/
theorem boot_runInv {cfg : Params} {now : Nat} (hu : cfg.timeWidth = none) (hnow : 1 ≤ now) :
    (State.boot cfg now).RunInv where
  inv := {
    unbounded := hu
    clock := hnow
    boot := fun e => by cases e <;> simp [State.boot]
    endpoints := fun e => by rw [ep_boot]; exact Endpoint.reset_inv }
  lines := nofun
  frames e := by rw [ep_boot]; exact Endpoint.reset_frames

/-- Settles O7: a reset endpoint meets both invariants, at every clock reading. -/
theorem invariantsHoldAfterBoot : Obligations.InvariantsHoldAfterBoot :=
  ⟨fun _ _ => boot_runInv, boot_runInv rfl (le_refl 1)⟩

end Sys2Proof.Machine
end

/-! ## Transmission over the wire: what `TX_BIT` makes of the two endpoints, bit by bit and as a whole -/

section

namespace Sys2Proof.Machine

/-- Endpoint `e` has sent bits: `left` stands in its `txShift`, and the bits `arrived` have reached the tail of its
peer's queue (20_memory.md R49, R55). -/
def State.sent (s : State) (e : EndpointId) (left arrived : List Bit) : State :=
  (s.setEp e { s.ep e with txShift := left }).setEp (peer e)
    { s.ep (peer e) with phyBitQueue := (s.ep (peer e)).phyBitQueue ++ arrived }

section
variable {s : State} {e : EndpointId} {left arrived : List Bit}

@[simp] theorem ep_sent : (s.sent e left arrived).ep e = { s.ep e with txShift := left } := by simp [State.sent]

@[simp] theorem ep_peer_sent : (s.sent e left arrived).ep (peer e) =
    { s.ep (peer e) with phyBitQueue := (s.ep (peer e)).phyBitQueue ++ arrived } := by simp [State.sent]

@[simp] theorem sent_cfg : (s.sent e left arrived).cfg = s.cfg := by simp [State.sent]

@[simp] theorem sent_registered : (s.sent e left arrived).registered = s.registered := by simp [State.sent]

/-- Two transmissions in a row are one, of the bits of both in order. -/
@[simp] theorem sent_sent (left' arrived' : List Bit) :
    (s.sent e left arrived).sent e left' arrived' = s.sent e left' (arrived ++ arrived') := by
  cases e <;> simp [State.sent, State.ep, State.setEp, peer]

/-- Nothing is sent: nothing changes. -/
theorem sent_nil_of_txShift (h : (s.ep e).txShift = left) : s.sent e left [] = s := by
  subst h
  cases e <;> simp [State.sent, State.ep, State.setEp, peer]

end

/-- The conditions under which every bit that endpoint `e` sends reaches its peer: `e` is in `P_TX` without a fault,
both endpoints are registered on the medium of the closed system, and the queues are unbounded. -/
structure State.WireOpen (s : State) (e : EndpointId) : Prop where
  sending : (s.ep e).enabledIn .tx
  closed : s.cfg.wiring = .closed
  registered : ∀ f : EndpointId, f ∈ s.registered
  unbounded : s.cfg.phyqDepth = none

section
variable {s : State} {e : EndpointId}

/-- Sending leaves the wire as it was: it writes `txShift` and the peer's queue alone. -/
theorem State.WireOpen.sent (h : s.WireOpen e) (left arrived : List Bit) : (s.sent e left arrived).WireOpen e where
  sending := by simpa using h.sending
  closed := by simpa using h.closed
  registered := by simpa using h.registered
  unbounded := by simpa using h.unbounded

/-- One `TX_BIT` moves the head of `txShift`, as the medium hands it over, to the tail of the peer's queue
(41_serdes.md R112, 60_exceptions.md R215). -/
theorem exec_txBit_of_wireOpen (h : s.WireOpen e) {b draw : Bit} {rest : List Bit} (hb : (s.ep e).txShift = b :: rest) :
    exec (.txBit e draw) s = .next (s.sent e rest [deliverBit s.cfg.medium b draw]) := by
  show execTxBit e draw s = _
  simp only [execTxBit, hb, if_pos h.sending, h.closed, transmitFrom, h.registered, if_true, receiveBit, h.unbounded,
    fits_none, State.sent]

/-- One `TX_BIT` per bit of `txShift`: by induction on the bits still to be sent. -/
theorem runOps_txBits_of_wireOpen (h : s.WireOpen e) {bits draws : List Bit} (hb : (s.ep e).txShift = bits)
    (hlen : draws.length = bits.length) :
    runOps (txBits e draws) s = .next (s.sent e [] (deliveredBits s.cfg.medium bits draws)) := by
  induction bits generalizing s draws with
  | nil =>
    obtain rfl := List.length_eq_zero_iff.1 hlen
    simp [txBits, runOps, deliveredBits, sent_nil_of_txShift hb]
  | cons b rest ih =>
    obtain ⟨draw, draws, rfl⟩ := List.exists_cons_of_length_eq_add_one hlen
    have htail := ih (h.sent rest [deliverBit s.cfg.medium b draw]) (by simp) (Nat.succ.inj hlen)
    calc runOps (txBits e (draw :: draws)) s
        = runOps (txBits e draws) (s.sent e rest [deliverBit s.cfg.medium b draw]) := by
          simp [txBits, runOps, exec_txBit_of_wireOpen h hb]
      _ = _ := by rw [htail]; simp [deliveredBits]

end

/-- Settles O51: the run of the whole `txShift`, with `State.sent` written out. -/
theorem transmissionDeliversTheBitsInOrder : Obligations.TransmissionDeliversTheBitsInOrder :=
  fun _ _ _ hphase hfault hclosed hreg hdepth hlen =>
    runOps_txBits_of_wireOpen ⟨⟨hphase, hfault⟩, hclosed, hreg, hdepth⟩ rfl hlen

end Sys2Proof.Machine
end

/-! ## What an operation does to the queues -/

section

namespace Sys2Proof.Machine

/-- One operation's discipline on a first-in first-out queue (20_memory.md R40): elements join at the tail, or leave
from the head. -/
def Fifo {α : Type} (before after : List α) : Prop := before <+: after ∨ after <:+ before

section
variable {α : Type}

theorem Fifo.refl (q : List α) : Fifo q q := .inl (List.prefix_refl q)

theorem Fifo.push (q new : List α) : Fifo q (q ++ new) := .inl (List.prefix_append q new)

theorem Fifo.empty (q : List α) : Fifo q [] := .inr List.nil_suffix

theorem Fifo.drop (n : Nat) (q : List α) : Fifo q (q.drop n) := .inr (List.drop_suffix n q)

end

/-- The bits that `DRAIN` leaves over are the tail of those it was given (41_serdes.md R114). -/
theorem regroup_left_suffix (l : List Bit) : (regroup l).2 <:+ l := ⟨_, (regroup_spec l).1.symm⟩

section
variable {i : Instr} {s : State} {e : EndpointId} {x y : Endpoint}

/-- `APP_PUSH` fills `sendBuffer` and a new frame empties its head (20_memory.md R45). -/
theorem Move.sendBuffer_fifo (m : Move i s e x y) (hi : i ≠ .reset e) : Fifo x.sendBuffer y.sendBuffer := by
  cases m with
  | reset hr => exact absurd hr hi
  | appPush bs => exact .push _ bs
  | sendsNew => exact .drop _ _
  | _ => exact .refl _

/-- A bit arrives at the tail of `phyBitQueue`, and `DRAIN` takes all of them. -/
theorem Move.phyBitQueue_fifo (m : Move i s e x y) (hi : i ≠ .reset e) : Fifo x.phyBitQueue y.phyBitQueue := by
  cases m with
  | reset hr => exact absurd hr hi
  | receivesBit b => exact .push _ [b]
  | drains => exact .empty _
  | _ => exact .refl _

/-- `DRAIN` appends the assembled bytes to `receiveBuffer`, and the deframer keeps a tail of it. -/
theorem Move.receiveBuffer_fifo (m : Move i s e x y) (hi : i ≠ .reset e) : Fifo x.receiveBuffer y.receiveBuffer := by
  cases m with
  | reset hr => exact absurd hr hi
  | drains => exact .push _ _
  | scans rb evs sc hx hrb => exact .inr hrb
  | parsesNothing rb evs hx hrb | parsesAck rb evs hx hrb => exact .inr hrb
  | parsesData rb evs f hx hrb => exact .inr hrb
  | _ => exact .refl _

/-- A delivery appends to `appBuffer`, and `APP_RETRIEVE` takes all of it. -/
theorem Move.appBuffer_fifo (m : Move i s e x y) (hi : i ≠ .reset e) : Fifo x.appBuffer y.appBuffer := by
  cases m with
  | reset hr => exact absurd hr hi
  | appRetrieve => exact .empty _
  | delivers data | sentAckDelivers data => exact .push _ data
  | _ => exact .refl _

/-- Only `DRAIN` writes `bitBuffer`, with the bits left over of those waiting (10_state.md R29). -/
theorem Move.bitBuffer_cases (m : Move i s e x y) (hi : i ≠ .reset e) :
    y.bitBuffer = x.bitBuffer ∨ y.bitBuffer <:+ x.bitBuffer ++ x.phyBitQueue := by
  cases m with
  | reset hr => exact absurd hr hi
  | drains => exact .inr (regroup_left_suffix _)
  | _ => exact .inl rfl

end

/-- Settles O57, from what a move does to each of the five queues. -/
theorem queuesAreFirstInFirstOut : Obligations.QueuesAreFirstInFirstOut := fun _ _ _ e h hi =>
  have m := (exec_effect h).moves e
  ⟨m.sendBuffer_fifo hi, m.phyBitQueue_fifo hi, m.receiveBuffer_fifo hi, m.appBuffer_fifo hi, m.bitBuffer_cases hi⟩

end Sys2Proof.Machine
end

/-! ## Framing: what the deframer returns for the encoder's frames, and how long they are -/

section

namespace Sys2Proof.Machine

/-- The sequence and the parity byte are never tags, so the stuffer leaves them alone (30_encoding.md R64, R65). -/
@[simp] theorem isTag_zext8 (q : Bit) : isTag (zext8 q) = false := by cases q <;> rfl

@[simp] theorem isTag_parity (l : List Byte) : isTag (parity l) = false := isTag_zext8 _

/-- Stuffing lengthens a byte list by its tags (43_stuff_createframe.md R137). -/
theorem length_stuffAll (l : List Byte) : (stuffAll l).length = l.length + l.countP isTag := by
  induction l with
  | nil => rfl
  | cons b l ih =>
    cases h : isTag b with
    | true => simp [stuffAll_cons, stuff_of_tag h, ih, h]; omega
    | false => simp [stuffAll_cons, stuff_of_not_tag h, ih, h]; omega

/-- The two tags, the sequence byte and the parity byte around the stuffed application bytes (30_encoding.md R72). -/
theorem length_createFrame (d : List Byte) (q : Bit) :
    (createFrame d q).length = d.length + d.countP isTag + 4 := by
  simp [createFrame_eq, length_stuffAll]
  omega

/-- Settles O45: the sizes of all frames from `length_createFrame`, and at most every application byte is a tag. -/
theorem frameSizes : Obligations.FrameSizes := by
  refine ⟨fun d q => ?_, fun d q hpos hmax => ?_, rfl, rfl⟩
  · simp [length_createFrame]
  · have htags : d.countP isTag ≤ d.length := List.countP_le_length
    simp only [length_serialize, length_createFrame]
    omega

/-- A stuffed sequence between its tags is taken back as it was, whatever precedes and follows it: the deframer classifies
exactly those bytes (44_destuff_processframe.md R163). -/
theorem processFrame_stuffed (g l rest : List Byte) (hg : Config.startTag ∉ g) :
    processFrame (g ++ ([Config.startTag] ++ stuffAll l ++ [Config.stopTag]) ++ rest) = classify l rest (discarded g) := by
  have hbuf : g ++ ([Config.startTag] ++ stuffAll l ++ [Config.stopTag]) ++ rest =
      g ++ Config.startTag :: (stuffAll l ++ Config.stopTag :: rest) := by simp
  rw [hbuf, processFrame_start _ _ hg, walk_stuffAll, walk_stop, List.nil_append]

theorem processFrame_stuffed_head (l rest : List Byte) :
    processFrame ([Config.startTag] ++ stuffAll l ++ [Config.stopTag] ++ rest) = classify l rest [] := by
  simpa using processFrame_stuffed [] l rest (by simp)

/-- A built data frame at the head of the buffer is returned as its sequence byte and its application bytes (R162). -/
theorem processFrame_createFrame (d rest : List Byte) (q : Bit) :
    processFrame (createFrame d q ++ rest) = ⟨rest, .frame (zext8 q :: d), []⟩ := by
  rw [createFrame_eq, processFrame_stuffed_head, classify_data]
  exact if_pos rfl

/-- A frame of one byte is returned unchecked (R160). -/
theorem processFrame_oneByte (b : Byte) (rest : List Byte) :
    processFrame ([Config.startTag] ++ stuff b ++ [Config.stopTag] ++ rest) = ⟨rest, .frame [b], []⟩ := by
  simpa [stuffAll_cons, classify_one] using processFrame_stuffed_head [b] rest

theorem processFrame_ackFrame (rest : List Byte) :
    processFrame (ackFrame ++ rest) = ⟨rest, .frame [Config.ackTag], []⟩ := processFrame_oneByte Config.ackTag rest

/-- A frame with nothing between its tags is logged and dropped (R159). -/
theorem processFrame_emptyFrame (rest : List Byte) :
    processFrame ([Config.startTag, Config.stopTag] ++ rest) = ⟨rest, .noFrame, [.emptyFrame]⟩ :=
  processFrame_stuffed_head [] rest

end Sys2Proof.Machine
end

/-! ## The decoder and the encoder -/

section

namespace Sys2Proof.Machine

@[simp] theorem decodeBitByte_zext8 (q : Bit) : decodeBitByte (zext8 q) = some q := by cases q <;> rfl

theorem decodeBitByte_some {b : Byte} {q : Bit} (h : decodeBitByte b = some q) : zext8 q = b := by
  unfold decodeBitByte at h
  split at h
  · next hb => cases h; exact hb.symm
  · split at h
    · next hb => cases h; exact hb.symm
    · cases h

theorem decodeUnescaped_literal {b : Byte} (e : EndpointId) (h : isTag b = false) :
    decodeUnescaped e b = .literal e b := by
  simp [decodeUnescaped, classOf_literal h]

section
variable {bs : List Byte} (e : EndpointId)

/-! ### The frame that the deframer's result stands for -/

theorem frameCandidate_of_noFrame (h : (processFrame bs).res = .noFrame) : frameCandidate e bs = .emptyFrame e := by
  simp [frameCandidate, h]

theorem frameCandidate_of_ack (h : (processFrame bs).res = .frame [Config.ackTag]) :
    frameCandidate e bs = .ackFrameCode e := by
  simp [frameCandidate, h]

theorem frameCandidate_of_oneByte {b : Byte} (h : (processFrame bs).res = .frame [b]) (hb : b ≠ Config.ackTag) :
    frameCandidate e bs = .oneByteFrame e b := by
  simp [frameCandidate, h, hb]

theorem frameCandidate_of_data {d : List Byte} {q : Bit} (h : (processFrame bs).res = .frame (zext8 q :: d))
    (hd : d ≠ []) : frameCandidate e bs = .dataFrame e d q := by
  obtain ⟨c, d, rfl⟩ := List.exists_cons_of_ne_nil hd
  simp [frameCandidate, h]

/-- A well-formed frame code that the deframer's result stands for is accepted in the encoder's form. -/
theorem decodeFrame_encode {i : Instr} (hwf : i.wf = true) (hi : frameCandidate e (encode i) = i) :
    decodeFrame e (encode i) = .ok i := by
  simp [decodeFrame, hi, hwf]

end

/-- What the deframer returns for the encoding of a well-formed frame code stands for that very code: the four frame
formats are told apart (30_encoding.md R70). -/
theorem frameCandidate_encode {i : Instr} {e : EndpointId} (hwf : i.wf = true) (hp : positionOf i = some (.frame e)) :
    frameCandidate e (encode i) = i := by
  cases i with
  | ackFrameCode e' =>
    cases hp
    exact frameCandidate_of_ack e (congrArg Parsed.res (processFrame_ackFrame []))
  | dataFrame e' d q =>
    cases hp
    have hd : d ≠ [] := by rintro rfl; cases hwf
    have hf := processFrame_createFrame d [] q
    rw [List.append_nil] at hf
    exact frameCandidate_of_data e (congrArg Parsed.res hf) hd
  | emptyFrame e' =>
    cases hp
    exact frameCandidate_of_noFrame e (congrArg Parsed.res (processFrame_emptyFrame []))
  | oneByteFrame e' b =>
    cases hp
    have hb : b ≠ Config.ackTag := by simpa [Instr.wf] using hwf
    have hf := processFrame_oneByte b []
    rw [List.append_nil] at hf
    exact frameCandidate_of_oneByte e (congrArg Parsed.res hf) hb
  | _ => cases hp

/-- Settles O2: a code of one or two bytes by the class of its bytes, a frame by what the deframer returns for it. -/
theorem decodeOfEncodeIsTheInstruction : Obligations.DecodeOfEncodeIsTheInstruction := by
  intro i p hwf hp
  cases i with
  | garbageHunt e b =>
    cases hp
    have hb : b ≠ Config.startTag := by simpa [Instr.wf] using hwf
    simp [decode, encode, decodeHunting, hb]
  | literal e b =>
    cases hp
    have hb : isTag b = false := by simpa [Instr.wf] using hwf
    simp [decode, encode, decodeUnescaped_literal e hb]
  | seqByte q | parityByte q => cases hp; simp [decode, encode]
  | ackFrameCode e | dataFrame e | emptyFrame e | oneByteFrame e =>
    cases hp
    exact decodeFrame_encode e hwf (frameCandidate_encode hwf rfl)
  | startHunt e | start e | stop e | esc e | literalEscaped e b | ackTagByte e | escPair e b | stuff7B | stuff7D
  | stuff5C => cases hp; rfl
  | _ => cases hp

/-! ### What the decoder accepts -/

theorem decodeHunting_sound (e : EndpointId) (b : Byte) :
    encode (decodeHunting e b) = [b] ∧ (decodeHunting e b).wf = true := by
  unfold decodeHunting
  split
  · next hb => exact ⟨by rw [hb]; rfl, rfl⟩
  · next hb => exact ⟨rfl, by simpa [Instr.wf] using hb⟩

theorem decodeUnescaped_sound (e : EndpointId) (b : Byte) :
    encode (decodeUnescaped e b) = [b] ∧ (decodeUnescaped e b).wf = true := by
  unfold decodeUnescaped
  split
  · next hb => rw [classOf_eq_start hb]; exact ⟨rfl, rfl⟩
  · next hb => rw [classOf_eq_stop hb]; exact ⟨rfl, rfl⟩
  · next hb => rw [classOf_eq_esc hb]; exact ⟨rfl, rfl⟩
  · next hb => exact ⟨rfl, by simpa [Instr.wf] using isTag_of_classOf_literal hb⟩

theorem decodeStuffedPair_sound {a b : Byte} {i : Instr} (h : decodeStuffedPair a b = .ok i) :
    encode i = [a, b] ∧ i.wf = true := by
  unfold decodeStuffedPair at h
  split at h
  · next ha =>
    subst ha
    split at h
    · next hb => cases h; rw [classOf_eq_start hb]; exact ⟨rfl, rfl⟩
    · next hb => cases h; rw [classOf_eq_stop hb]; exact ⟨rfl, rfl⟩
    · next hb => cases h; rw [classOf_eq_esc hb]; exact ⟨rfl, rfl⟩
    · cases h
  · cases h

theorem decodeFrame_sound {e : EndpointId} {bs : List Byte} {i : Instr} (h : decodeFrame e bs = .ok i) :
    encode i = bs ∧ i.wf = true := by
  unfold decodeFrame at h
  split at h
  · next hc => cases h; exact hc.symm
  · cases h

/-- Settles O3: the position is `decode_positionOf`; the encoding and the operands, position by position. -/
theorem decodedCodeEncodesBack : Obligations.DecodedCodeEncodesBack := by
  intro p bs i h
  suffices hs : encode i = bs ∧ i.wf = true from ⟨hs.1, decode_positionOf h, hs.2⟩
  unfold decode at h
  split at h
  case h_1 e b => cases h; exact decodeHunting_sound e b
  case h_2 e b => cases h; exact decodeUnescaped_sound e b
  case h_3 => cases h; exact ⟨rfl, rfl⟩
  case h_4 =>
    split at h
    · next hb => cases h; exact ⟨by rw [hb]; rfl, rfl⟩
    · cases h
  case h_5 | h_6 =>
    split at h
    · next hb => cases h; exact ⟨congrArg (fun c => [c]) (decodeBitByte_some hb), rfl⟩
    · cases h
  case h_7 =>
    split at h
    · next ha => cases h; exact ⟨by rw [ha]; rfl, rfl⟩
    · cases h
  case h_8 => exact decodeStuffedPair_sound h
  case h_9 => exact decodeFrame_sound h
  case h_10 => cases h

/-- Settles O1: thirteen closed words, which the decoder evaluates. -/
theorem codePointsDecode : Obligations.CodePointsDecode := by
  unfold Obligations.CodePointsDecode
  decide

end Sys2Proof.Machine
end

/-! ## The step on a script line -/

section

namespace Sys2Proof.Machine

section
variable {s : State} {i : Instr} {l : Line} {rest : List Line} {p : Position} {bs : List Byte}

/-! ### What the fetch gives for a script line -/

theorem admitLine_of_free (hwf : i.wf = true) (hfree : isFreeStep s.cfg i = true) : admitLine i s = .run i s := by
  simp [admitLine, hwf, hfree]

theorem admitLine_of_not_free (hwf : i.wf = true) (hfree : isFreeStep s.cfg i = false) :
    admitLine i s = .refused .notAFreeStep := by
  simp [admitLine, hwf, hfree]

theorem admitLine_of_not_wf (hwf : i.wf = false) : admitLine i s = .refused .illFormedLine := by
  simp [admitLine, hwf]

theorem fetchLine_op : fetchLine (.op i) s = admitLine i s := rfl

theorem fetchLine_code_ok (h : decode p bs = .ok i) : fetchLine (.code p bs) s = admitLine i s := by
  simp [fetchLine, h]

theorem fetchLine_code_error {err : DecodeError} (h : decode p bs = .error err) :
    fetchLine (.code p bs) s = .refused .undecodable := by
  simp [fetchLine, h]

/-- A wire code is always a free step: `PHY_RX` and `transmit` have no encoding (30_encoding.md R73). -/
theorem isFreeStep_of_decode (cfg : Params) (h : decode p bs = .ok i) : isFreeStep cfg i = true := by
  have hp := decode_positionOf h
  refine (isFreeStep_iff cfg i).2 (.inr ⟨fun e b hi => ?_, fun e b draw hi => ?_⟩) <;> rw [hi] at hp <;> cases hp

/-! ### What the step makes of it -/

theorem step_of_fetchLine_run {j : Instr} {u : State} (hs : s.script = l :: rest)
    (h : fetchLine l { s with script := rest } = .run j u) : step s = exec j u := by
  simp [step, fetch, hs, h]

theorem step_of_fetchLine_refused {r : Refusal} (hs : s.script = l :: rest)
    (h : fetchLine l { s with script := rest } = .refused r) : step s = .refused r := by
  simp [step, fetch, hs, h]

/-- A line that calls a port or a helper of the medium from outside is refused in the closed system (R215, R223). -/
theorem step_of_not_free (hs : s.script = .op i :: rest) (hwf : i.wf = true) (hfree : isFreeStep s.cfg i = false) :
    step s = .refused .notAFreeStep :=
  step_of_fetchLine_refused hs (fetchLine_op.trans (admitLine_of_not_free hwf hfree))

end

/-- Settles O4: each clause is one way that the fetch of the script's first line can end. -/
theorem stepRunsTheScriptedInstruction : Obligations.StepRunsTheScriptedInstruction := by
  refine ⟨fun s i rest hs hwf hfree => ?_, fun s p bs i rest hs hd hwf => ?_, fun s e b rest hs hw => ?_,
    fun s e b draw rest hs hw => ?_, fun s i rest hs hwf => ?_, fun s p bs err rest hs hd => ?_⟩
  · exact step_of_fetchLine_run hs (admitLine_of_free hwf ((isFreeStep_iff _ i).2 hfree))
  · exact step_of_fetchLine_run hs ((fetchLine_code_ok hd).trans (admitLine_of_free hwf (isFreeStep_of_decode _ hd)))
  · exact step_of_not_free hs rfl (by simp [isFreeStep, hw])
  · exact step_of_not_free hs rfl (by simp [isFreeStep, hw])
  · exact step_of_fetchLine_refused hs (admitLine_of_not_wf hwf)
  · exact step_of_fetchLine_refused hs (fetchLine_code_error hd)

end Sys2Proof.Machine
end

/-! ## The frame codes -/

section

namespace Sys2Proof.Machine

section
variable {x : Endpoint} {s : State} {e : EndpointId} {f rest : List Byte} {res : ParseResult} {evs : List Event}

/-- The dispatch of a parsed sequence where no call is in progress, so that `scan` stays as it is. -/
theorem handleParsed_frame (hscan : x.scan = Scan.idle) :
    handleParsed ⟨rest, .frame f, evs⟩ x = dispatch f { x with receiveBuffer := rest, trace := x.trace ++ evs } := by
  simp [handleParsed, ← hscan]

theorem handleParsed_noFrame (hscan : x.scan = Scan.idle) :
    handleParsed ⟨rest, .noFrame, evs⟩ x =
      { x with receiveBuffer := rest, trace := x.trace ++ evs, phase := .timeout } := by
  simp [handleParsed, ← hscan]

/-- A frame code removes its frame from the head of the receive buffer and handles what it stands for (log 9). -/
theorem perform_consumeFrame (hx : (s.ep e).enabledIn .process) (hscan : (s.ep e).scan = Scan.idle)
    (hbuf : (s.ep e).receiveBuffer = f ++ rest) :
    perform e s (consumeFrame f res evs) = .next (s.setEp e (handleParsed ⟨rest, res, evs⟩ (s.ep e))) := by
  have hhead : (s.ep e).frameAtHead f := ⟨hx, hscan, by simp [hbuf]⟩
  refine perform_done ?_
  rw [consumeFrame, if_pos hhead, hbuf, List.drop_left]

/-- `PROCESS` on a buffer with bytes in it handles what the deframer returns (40_event_loop.md R96). -/
theorem exec_process_of_ne_nil (hx : (s.ep e).enabledIn .process) (hbuf : (s.ep e).receiveBuffer ≠ []) :
    exec (.process e) s =
      .next (s.setEp e (handleParsed (processFrame (s.ep e).receiveBuffer) (s.ep e))) := by
  show execProcess e s = _
  rw [execProcess]
  exact perform_done (by rw [if_pos hx, if_neg hbuf])

/-- A frame code that stands for what the deframer returns on its bytes acts as `PROCESS`. -/
theorem perform_consumeFrame_eq_process (hx : (s.ep e).enabledIn .process) (hscan : (s.ep e).scan = Scan.idle)
    (hne : f ≠ []) (hpre : f <+: (s.ep e).receiveBuffer)
    (hparse : ∀ rest, processFrame (f ++ rest) = ⟨rest, res, evs⟩) :
    perform e s (consumeFrame f res evs) = exec (.process e) s := by
  obtain ⟨rest, hbuf⟩ := hpre
  have hbuf_ne : (s.ep e).receiveBuffer ≠ [] := by simp [← hbuf, hne]
  rw [perform_consumeFrame hx hscan hbuf.symm, exec_process_of_ne_nil hx hbuf_ne, ← hbuf, hparse]

end

/-- Settles O42: for each frame format, the deframer's result on its bytes is the one that its code handles. -/
theorem frameCodesActAsProcess : Obligations.FrameCodesActAsProcess := by
  intro s e i hp hphase hfault hscan hpre
  have hx : (s.ep e).enabledIn .process := ⟨hphase, hfault⟩
  cases i with
  | ackFrameCode e' =>
    cases hp
    exact perform_consumeFrame_eq_process hx hscan (by simp [ackFrame]) hpre processFrame_ackFrame
  | dataFrame e' d q =>
    cases hp
    exact perform_consumeFrame_eq_process hx hscan (by simp [createFrame]) hpre
      fun rest => processFrame_createFrame d rest q
  | emptyFrame e' =>
    cases hp
    exact perform_consumeFrame_eq_process hx hscan (by simp) hpre processFrame_emptyFrame
  | oneByteFrame e' b =>
    cases hp
    exact perform_consumeFrame_eq_process hx hscan (by simp) hpre (processFrame_oneByte b)
  | _ => cases hp

/-- Every sequence but the ACK's is acknowledged (45_par_fsm.md R172). -/
theorem dispatch_of_ne_ack {f : List Byte} (hf : f ≠ [Config.ackTag]) (x : Endpoint) : dispatch f x = acknowledge f x :=
  if_neg hf

/-- A returned sequence that begins with the sequence byte is not the ACK's, whose byte is neither 0 nor 1. -/
theorem zext8_cons_ne_ack (q : Bit) (d : List Byte) : zext8 q :: d ≠ [Config.ackTag] := by
  cases q <;> simp [zext8, Config.ackTag]

/-- Settles O41: each code handles what it stands for, and the dispatch observes or loads an ACK. -/
theorem frameCodesAreConsumedAndDispatched : Obligations.FrameCodesAreConsumedAndDispatched := by
  intro s e rest hphase hfault hscan
  have hx : (s.ep e).enabledIn .process := ⟨hphase, hfault⟩
  refine ⟨fun hbuf => ?_, fun d q hbuf => ?_, fun hbuf => ?_, fun b hb hbuf => ?_⟩
  · refine (perform_consumeFrame hx hscan hbuf).trans ?_
    rw [handleParsed_frame hscan, dispatch, if_pos rfl]
    simp [observeAck, flip]
  · refine (perform_consumeFrame hx hscan hbuf).trans ?_
    rw [handleParsed_frame hscan, dispatch_of_ne_ack (zext8_cons_ne_ack q d)]
    simp [acknowledge, loadEncoder, contOf, ackFrame, Config.startTag, Config.ackTag, Config.stopTag]
  · refine (perform_consumeFrame hx hscan hbuf).trans ?_
    rw [handleParsed_noFrame hscan]
  · refine (perform_consumeFrame hx hscan hbuf).trans ?_
    rw [handleParsed_frame hscan, dispatch_of_ne_ack (by simpa [Config.ackTag] using hb)]
    simp [acknowledge, loadEncoder, contOf, ackFrame, Config.startTag, Config.ackTag, Config.stopTag]

end Sys2Proof.Machine
end

/-! ## One data frame over the `Perfect` link

The sender's half and the receiver's half of the exchange, each as one equation for the state it ends in; the whole
exchange is one after the other. -/

section

namespace Sys2Proof.Machine

/-! ### Runs in parts -/

theorem runOps_cons_of_next {i : Instr} {rest : List Instr} {s t : State} (h : exec i s = .next t) :
    runOps (i :: rest) s = runOps rest t := by
  simp [runOps, h]

theorem runOps_append_of_next {first second : List Instr} {s t : State} (h : runOps first s = .next t) :
    runOps (first ++ second) s = runOps second t := by
  induction first generalizing s with
  | nil => cases h; rfl
  | cons i first ih =>
    cases hi : exec i s with
    | next u =>
      rw [runOps_cons_of_next hi] at h
      rw [List.cons_append, runOps_cons_of_next hi, ih h]
    | fault k => simp [runOps, hi] at h
    | refused r => simp [runOps, hi] at h

/-- The `Perfect` medium hands over the bits as they were sent (60_exceptions.md R216). -/
theorem deliveredBits_perfect {sent draws : List Bit} (h : draws.length = sent.length) :
    deliveredBits .perfect sent draws = sent := by
  induction sent generalizing draws with
  | nil => simp [deliveredBits]
  | cons b sent ih =>
    obtain ⟨draw, draws, rfl⟩ := List.exists_cons_of_length_eq_add_one h
    have htail := ih (Nat.succ.inj h)
    simpa [deliveredBits, deliverBit] using htail

/-- A byte stream that arrives whole is assembled whole (41_serdes.md R113, R114). -/
theorem regroup_serialize (f : List Byte) : regroup (serialize f) = (f, []) := by
  induction f with
  | nil => rfl
  | cons b f ih => rw [serialize_cons, regroup_bitsMSB, ih]

/-- Bits that have reached the tail of endpoint `e`'s queue (20_memory.md R49). -/
def State.arriveAt (s : State) (e : EndpointId) (bits : List Bit) : State :=
  s.setEp e { s.ep e with phyBitQueue := (s.ep e).phyBitQueue ++ bits }

/-- The closed system with both endpoints registered on the `Perfect` medium, and no queue bounded. -/
structure State.PerfectLink (s : State) : Prop where
  closed : s.cfg.wiring = .closed
  perfect : s.cfg.medium = .perfect
  registered : ∀ f : EndpointId, f ∈ s.registered
  phyq : s.cfg.phyqDepth = none
  bitbuf : s.cfg.bitbufDepth = none
  rxbuf : s.cfg.rxbufDepth = none
  appbuf : s.cfg.appbufDepth = none

/-- Endpoint record `y` is about to drain the bits of exactly the frame `f`, with nothing left over from before. -/
structure Endpoint.Holds (y : Endpoint) (f : List Byte) : Prop where
  draining : y.enabledIn .drain
  scan : y.scan = Scan.idle
  queue : y.phyBitQueue = serialize f
  bits : y.bitBuffer = []
  bytes : y.receiveBuffer = []

section
variable {s t : State} {e : EndpointId}

@[simp] theorem ep_arriveAt (bits : List Bit) :
    (s.arriveAt e bits).ep e = { s.ep e with phyBitQueue := (s.ep e).phyBitQueue ++ bits } := by simp [State.arriveAt]

@[simp] theorem ep_arriveAt_peer (bits : List Bit) : (s.arriveAt (peer e) bits).ep e = s.ep e := by
  simp [State.arriveAt]

@[simp] theorem ep_peer_arriveAt (bits : List Bit) : (s.arriveAt e bits).ep (peer e) = s.ep (peer e) := by
  simp [State.arriveAt]

/-- The conditions of the link are about the parameters and the registration set alone. -/
theorem State.PerfectLink.setEp (h : s.PerfectLink) (e : EndpointId) (x : Endpoint) : (s.setEp e x).PerfectLink := by
  obtain ⟨hclosed, hperfect, hreg, hphyq, hbitbuf, hrxbuf, happbuf⟩ := h
  constructor <;> simpa

theorem State.PerfectLink.arriveAt (h : s.PerfectLink) (e : EndpointId) (bits : List Bit) :
    (s.arriveAt e bits).PerfectLink := h.setEp e _

/-- Once its encoder is loaded, every bit an endpoint sends over the link reaches its peer. -/
theorem State.PerfectLink.wireOpen (h : s.PerfectLink) (hx : (s.ep e).enabledIn .tx) : s.WireOpen e :=
  ⟨hx, h.closed, h.registered, h.phyq⟩

/-- A whole transmission over the link, and the `TX_DONE` that ends it. -/
theorem runOps_txBits_txDone (h : s.PerfectLink) (hx : (s.ep e).enabledIn .tx) {draws : List Bit}
    (hlen : draws.length = (s.ep e).txShift.length)
    (hdone : exec (.txDone e) (s.sent e [] (s.ep e).txShift) = .next t) :
    runOps (txBits e draws ++ [.txDone e]) s = .next t := by
  have hbits := runOps_txBits_of_wireOpen (h.wireOpen hx) rfl hlen
  rw [h.perfect, deliveredBits_perfect hlen] at hbits
  rw [runOps_append_of_next hbits, runOps_cons_of_next hdone, runOps]

/-! ### The sender's half -/

/-- The sender's record once it has loaded its next data frame (40_event_loop.md R92). -/
def Endpoint.withNextFrame (x : Endpoint) : Endpoint :=
  loadEncoder (nextDataFrame x) .data { x with sendBuffer := x.sendBuffer.drop Config.maxFrameSize }

/-- The sender's record once the last bit of that frame has gone (40_event_loop.md R94, 45_par_fsm.md R171). -/
def Endpoint.afterNextFrame (now : Nat) (x : Endpoint) : Endpoint :=
  clearTx .drain (armSender now (nextDataFrame x)
    ({ x.withNextFrame with txShift := [] }.logs [.frameSent .data (nextDataFrame x)]))

@[simp] theorem afterNextFrame_sendBuffer (now : Nat) (x : Endpoint) :
    (x.afterNextFrame now).sendBuffer = x.sendBuffer.drop Config.maxFrameSize := rfl
@[simp] theorem afterNextFrame_awaitingAck (now : Nat) (x : Endpoint) : (x.afterNextFrame now).awaitingAck = true := rfl
@[simp] theorem afterNextFrame_lastFrame (now : Nat) (x : Endpoint) :
    (x.afterNextFrame now).lastFrame = some (nextDataFrame x) := rfl
@[simp] theorem afterNextFrame_timerStart (now : Nat) (x : Endpoint) : (x.afterNextFrame now).timerStart = now := rfl
@[simp] theorem afterNextFrame_phyBitQueue (now : Nat) (x : Endpoint) :
    (x.afterNextFrame now).phyBitQueue = x.phyBitQueue := rfl

theorem exec_sendNext_of_gateOpen (hx : (s.ep e).enabledIn .send) (hgate : (s.ep e).awaitingAck = false)
    (hbuf : (s.ep e).sendBuffer ≠ []) : exec (.sendNext e) s = .next (s.setEp e (s.ep e).withNextFrame) := by
  show execSendNext e s = _
  have hopen : ¬ (s.ep e).sendsNothing := by simp [hgate, hbuf]
  rw [execSendNext]
  exact perform_done (by rw [if_pos hx, if_neg hopen]; rfl)

theorem exec_txDone_of_data (hx : (s.ep e).hasSent .cData) :
    exec (.txDone e) s = .next (s.setEp e (clearTx .drain
      (armSender s.now (s.ep e).txFrame ((s.ep e).logs [.frameSent .data (s.ep e).txFrame])))) := by
  obtain ⟨hphase, hshift, hcont⟩ := hx
  show execTxDone e s = _
  rw [execTxDone]
  exact perform_done (by rw [if_pos ⟨hphase, hshift⟩, hcont])

/-- The sender's half: its next frame is in the peer's queue, and it awaits the ACK. -/
theorem runOps_sendFrame (h : s.PerfectLink) (hx : (s.ep e).enabledIn .send) (hgate : (s.ep e).awaitingAck = false)
    (hbuf : (s.ep e).sendBuffer ≠ []) {draws : List Bit} (hlen : draws.length = 8 * (nextDataFrame (s.ep e)).length) :
    runOps (.sendNext e :: (txBits e draws ++ [.txDone e])) s =
      .next ((s.setEp e ((s.ep e).afterNextFrame s.now)).arriveAt (peer e) (serialize (nextDataFrame (s.ep e)))) := by
  rw [runOps_cons_of_next (exec_sendNext_of_gateOpen hx hgate hbuf)]
  have hloaded : (s.ep e).withNextFrame.enabledIn .tx := ⟨rfl, hx.2⟩
  refine runOps_txBits_txDone (h.setEp e _) (by simpa using hloaded)
    (by simpa [Endpoint.withNextFrame] using hlen) ?_
  rw [exec_txDone_of_data (by simpa [Endpoint.withNextFrame, contOf] using hloaded)]
  simp [State.sent, State.arriveAt, setEp_comm, Endpoint.afterNextFrame, Endpoint.withNextFrame]

/-! ### The receiver's half -/

/-- The delivery half with an unbounded `appBuffer`: the data are delivered exactly if the sequence bits agree
(45_par_fsm.md R176). -/
def Endpoint.delivered (q : Bit) (d : List Byte) (y : Endpoint) : Endpoint :=
  if q = y.seqRecv then
    { y with seqRecv := flip y.seqRecv, appBuffer := y.appBuffer ++ d, trace := y.trace ++ [.deliver d] }
  else y.logs [.duplicate (zext8 q)]

theorem deliverSequence_of_unbounded {cfg : Params} (hdepth : cfg.appbufDepth = none) (q : Bit) (d : List Byte)
    (y : Endpoint) : deliverSequence cfg (zext8 q :: d) y = .done (y.delivered q d) := by
  by_cases hq : q = y.seqRecv <;> simp [deliverSequence, Endpoint.delivered, hq, hdepth]

theorem exec_drain_of_holds {f : List Byte} (h : s.PerfectLink) (hy : (s.ep e).Holds f) :
    exec (.drain e) s = .next (s.setEp e { s.ep e with
      phyBitQueue := [], bitBuffer := [], receiveBuffer := f, phase := .process }) := by
  show execDrain e s = _
  rw [execDrain]
  refine perform_done ?_
  rw [if_pos hy.draining]
  simp [hy.queue, hy.bits, hy.bytes, regroup_serialize, h.bitbuf, h.rxbuf]

theorem exec_process_of_dataFrame {d : List Byte} {q : Bit} (hy : (s.ep e).enabledIn .process)
    (hscan : (s.ep e).scan = Scan.idle) (hbuf : (s.ep e).receiveBuffer = createFrame d q) :
    exec (.process e) s =
      .next (s.setEp e (acknowledge (zext8 q :: d) { s.ep e with receiveBuffer := [] })) := by
  have hparse := processFrame_createFrame d [] q
  rw [List.append_nil] at hparse
  rw [exec_process_of_ne_nil hy (by simp [hbuf, createFrame]), hbuf, hparse, handleParsed_frame hscan,
    dispatch_of_ne_ack (zext8_cons_ne_ack q d), List.append_nil]

theorem exec_txDone_of_ack {d : List Byte} {q : Bit} (hy : (s.ep e).hasSent .cAck)
    (hrx : (s.ep e).rxFrame = zext8 q :: d) (hdepth : s.cfg.appbufDepth = none) :
    exec (.txDone e) s = .next (s.setEp e (clearTx .timeout
      (((s.ep e).logs [.frameSent .ack (s.ep e).txFrame]).delivered q d))) := by
  obtain ⟨hphase, hshift, hcont⟩ := hy
  show execTxDone e s = _
  rw [execTxDone]
  refine perform_done ?_
  rw [if_pos ⟨hphase, hshift⟩, hcont]
  simp [finishAck, hrx, deliverSequence_of_unbounded hdepth]

/-- The receiver's record once it has parsed the frame and sent the last bit of its ACK, before the delivery. -/
def Endpoint.afterAck (q : Bit) (d : List Byte) (y : Endpoint) : Endpoint :=
  { acknowledge (zext8 q :: d) { y with phyBitQueue := [], bitBuffer := [], receiveBuffer := [], phase := .process } with
    txShift := [] }.logs [.frameSent .ack ackFrame]

/-- The receiver's half: the data frame in its queue is acknowledged over the link, then delivered. -/
theorem runOps_receiveFrame {d : List Byte} {q : Bit} (h : s.PerfectLink) (hy : (s.ep e).Holds (createFrame d q))
    {acks : List Bit} (hlen : acks.length = 24) :
    runOps (.drain e :: .process e :: (txBits e acks ++ [.txDone e])) s =
      .next ((s.setEp e (clearTx .timeout (((s.ep e).afterAck q d).delivered q d))).arriveAt (peer e)
        (serialize ackFrame)) := by
  have hfault : (s.ep e).fault = none := hy.draining.2
  rw [runOps_cons_of_next (exec_drain_of_holds h hy),
    runOps_cons_of_next (exec_process_of_dataFrame (d := d) (q := q) (by simpa using hfault) (by simpa using hy.scan)
      (by simp))]
  simp only [ep_setEp, setEp_setEp]
  refine runOps_txBits_txDone (h.setEp e _) (by simpa using hfault) (by simpa [ackFrame] using hlen) ?_
  rw [exec_txDone_of_ack (d := d) (q := q) (by simpa using hfault) (by simp) (by simpa using h.appbuf)]
  simp [State.sent, State.arriveAt, setEp_comm, Endpoint.afterAck]

end

/-- Settles O52: the sender's half, then the receiver's half on the state it leaves. -/
theorem oneFrameCrossesTheLink : Obligations.OneFrameCrossesTheLink := by
  intro s e draws acks hphase hfault hgate hsend hphase' hfault' hscan hqueue hbits hbytes hclosed hm hreg hphyDepth
    hbitDepth hrxDepth happDepth hdraws hacks
  have hlink : s.PerfectLink := ⟨hclosed, hm, hreg, hphyDepth, hbitDepth, hrxDepth, happDepth⟩
  have hsent := runOps_sendFrame hlink ⟨hphase, hfault⟩ hgate hsend hdraws
  have hholds : (((s.setEp e ((s.ep e).afterNextFrame s.now)).arriveAt (peer e)
      (serialize (nextDataFrame (s.ep e)))).ep (peer e)).Holds (nextDataFrame (s.ep e)) :=
    ⟨by simp [hphase', hfault'], by simpa using hscan, by simp [hqueue], by simpa using hbits, by simpa using hbytes⟩
  have hreceived := runOps_receiveFrame ((hlink.setEp e _).arriveAt (peer e) _) hholds hacks
  have hrun := (runOps_append_of_next hsent).trans hreceived
  simp only [List.cons_append, List.nil_append, List.append_assoc] at hrun ⊢
  refine ⟨_, hrun, ?_⟩
  have htaken : nextDataFrame (s.ep e) = createFrame ((s.ep e).sendBuffer.take 8) (s.ep e).seqSend := rfl
  refine ⟨by simp [Config.maxFrameSize], by simp, by simp [htaken], by simp,
    by simp [ackFrame, Config.startTag, Config.ackTag, Config.stopTag], fun hq => ?_, fun hq => ?_⟩
  · simp [Endpoint.delivered, Endpoint.afterAck, hq, flip, Config.maxFrameSize]
  · simp [Endpoint.delivered, Endpoint.afterAck, hq]

end Sys2Proof.Machine
end

/-! ## The event loop and the ports: one equation per operation and case

Each operation of the event loop has an enabling condition (40_event_loop.md R90), outside which it is stuck
(93_implementation_defined.md U14), and inside it one equation per case. The statements about the loop are assembled from
these. -/

section

namespace Sys2Proof.Machine

/-! ### Enabling conditions -/

section
variable {s : State} {e : EndpointId}

/-- Outside its enabling condition an operation is stuck (93_implementation_defined.md U14). -/
theorem perform_notEnabled {c : Endpoint → Prop} [DecidablePred c] {act : Endpoint → Act} (h : ¬ c (s.ep e)) :
    perform e s (fun x => if c x then act x else .stuck .notEnabled) = .fault .notEnabled :=
  perform_stuck (if_neg h)

/-- Inside its enabling condition an operation gives what its effect gives. -/
theorem perform_enabled {c : Endpoint → Prop} [DecidablePred c] {act : Endpoint → Act} {f : Fault} {x : Endpoint}
    (h : c (s.ep e)) (hact : act (s.ep e) = .done x) :
    perform e s (fun x => if c x then act x else .stuck f) = .next (s.setEp e x) :=
  perform_done ((if_pos h).trans hact)

/-- An operation that is not stuck goes on: it completes or raises a fatal error. -/
theorem perform_completes {act : Endpoint → Act} (h : ∀ f, act (s.ep e) ≠ .stuck f) : ∃ t, perform e s act = .next t := by
  cases hact : act (s.ep e) with
  | done x => exact ⟨_, perform_done hact⟩
  | raised k => exact ⟨_, perform_raised hact⟩
  | stuck f => exact absurd hact (h f)

/-! ### Going from phase to phase -/

/-- Endpoint `e` in another phase, with nothing else changed. -/
def State.inPhase (s : State) (e : EndpointId) (p : Phase) : State := s.setEp e { s.ep e with phase := p }

@[simp] theorem ep_inPhase (p : Phase) : (s.inPhase e p).ep e = { s.ep e with phase := p } := by simp [State.inPhase]

@[simp] theorem inPhase_inPhase (p q : Phase) : (s.inPhase e p).inPhase e q = s.inPhase e q := by simp [State.inPhase]

theorem inPhase_of_phase {p : Phase} (h : (s.ep e).phase = p) : s.inPhase e p = s := by
  subst h
  exact setEp_ep s e

/-! ### `CHK_STOP` and `SEND_NEXT` -/

theorem exec_chkStop (hx : (s.ep e).enabledIn .top) :
    exec (.chkStop e) s = .next (s.inPhase e (if (s.ep e).stopReq then .stopped else .send)) :=
  show execChkStop e s = _ from perform_enabled hx rfl

theorem exec_sendNext_of_sendsNothing (hx : (s.ep e).enabledIn .send) (hgate : (s.ep e).sendsNothing) :
    exec (.sendNext e) s = .next (s.inPhase e .drain) :=
  show execSendNext e s = _ from perform_enabled hx (if_pos hgate)

/-! ### The encoder -/

theorem exec_loadTx {f : List Byte} {c : FrameKind} (hx : (s.ep e).canLoadTx) :
    exec (.loadTx e f c) s = .next (s.setEp e (loadEncoder f c (s.ep e))) :=
  show execLoadTx e f c s = _ from perform_enabled hx rfl

/-- `TX_BIT` needs a bit to send (41_serdes.md R112). -/
theorem exec_txBit_notEnabled {draw : Bit} (h : ¬ ((s.ep e).enabledIn .tx ∧ (s.ep e).txShift ≠ [])) :
    exec (.txBit e draw) s = .fault .notEnabled := by
  show execTxBit e draw s = _
  unfold execTxBit
  split
  · rfl
  · next b rest hb => exact if_neg fun hx => h ⟨hx, by simp [hb]⟩

theorem exec_txBit_completes {draw : Bit} (hx : (s.ep e).enabledIn .tx) (hb : (s.ep e).txShift ≠ []) :
    ∃ t, exec (.txBit e draw) s = .next t := by
  show ∃ t, execTxBit e draw s = .next t
  obtain ⟨b, rest, hb⟩ := List.exists_cons_of_ne_nil hb
  cases hw : s.cfg.wiring <;> simp only [execTxBit, hb, if_pos hx, hw] <;> exact ⟨_, rfl⟩

/-! ### `TX_DONE` -/

theorem exec_txDone_of_retx {f : List Byte} (hx : (s.ep e).hasSent .cRetx) (hf : (s.ep e).lastFrame = some f) :
    exec (.txDone e) s = .next (s.setEp e (clearTx .top
      (armSender s.now f ((s.ep e).logs [.frameSent .retx (s.ep e).txFrame])))) := by
  obtain ⟨hphase, hshift, hcont⟩ := hx
  exact show execTxDone e s = _ from perform_enabled ⟨hphase, hshift⟩ (by simp only [hcont, hf])

/-- The end of an ACK is the delivery half, then the end of the transmission (40_event_loop.md R94). -/
theorem exec_txDone_of_delivered {z : Endpoint} (hx : (s.ep e).hasSent .cAck)
    (hz : deliverSequence s.cfg (s.ep e).rxFrame ((s.ep e).logs [.frameSent .ack (s.ep e).txFrame]) = .done z) :
    exec (.txDone e) s = .next (s.setEp e (clearTx .timeout z)) := by
  obtain ⟨hphase, hshift, hcont⟩ := hx
  exact show execTxDone e s = _ from perform_enabled ⟨hphase, hshift⟩ (by simp only [hcont, finishAck, hz])

theorem deliverSequence_of_inSequence {cfg : Params} {r : Byte} {data : List Byte} {x : Endpoint}
    (hr : r = zext8 x.seqRecv) (hfit : fits cfg.appbufDepth x.appBuffer data = true) :
    deliverSequence cfg (r :: data) x = .done { x with
      seqRecv := flip x.seqRecv, appBuffer := x.appBuffer ++ data, trace := x.trace ++ [.deliver data] } := by
  simp [deliverSequence, hr, hfit]

theorem deliverSequence_of_duplicate {cfg : Params} {r : Byte} {data : List Byte} {x : Endpoint}
    (hr : r ≠ zext8 x.seqRecv) : deliverSequence cfg (r :: data) x = .done (x.logs [.duplicate r]) := by
  simp [deliverSequence, hr]

/-- The end of an ACK is stuck only where the delivery half is: on the empty sequence. -/
theorem finishAck_ne_stuck {cfg : Params} {x : Endpoint} (h : x.rxFrame ≠ []) (f : Fault) :
    finishAck cfg x ≠ .stuck f := by
  unfold finishAck
  split
  · simp
  · simp
  · next k hk => exact absurd (deliverSequence_stuck.1 hk).1 h

/-! ### `DRAIN` and `PROCESS` -/

/-- `DRAIN` with no new bits, and less than a byte of old ones, assembles nothing (41_serdes.md R114). -/
theorem exec_drain_of_short (hx : (s.ep e).enabledIn .drain) (hq : (s.ep e).phyBitQueue = [])
    (hb : (s.ep e).bitBuffer.length < 8) : exec (.drain e) s = .next (s.inPhase e .process) := by
  show execDrain e s = _
  refine perform_enabled hx ?_
  simp [hq, regroup_short _ hb]

theorem exec_drain_completes (hx : (s.ep e).enabledIn .drain) : ∃ t, exec (.drain e) s = .next t := by
  show ∃ t, execDrain e s = .next t
  refine perform_completes fun f => ?_
  simp only [if_pos hx]
  split <;> simp

/-- `PROCESS` calls nothing on an empty buffer (40_event_loop.md R96 (c)). -/
theorem exec_process_of_nil (hx : (s.ep e).enabledIn .process) (hscan : (s.ep e).scan = Scan.idle)
    (hbuf : (s.ep e).receiveBuffer = []) : exec (.process e) s = .next (s.inPhase e .timeout) :=
  show execProcess e s = _ from perform_enabled hx (by rw [if_pos hbuf, ← hscan])

theorem exec_process_completes (hx : (s.ep e).enabledIn .process) : ∃ t, exec (.process e) s = .next t := by
  by_cases hbuf : (s.ep e).receiveBuffer = []
  · exact ⟨_, show execProcess e s = _ from perform_enabled hx (if_pos hbuf)⟩
  · exact ⟨_, exec_process_of_ne_nil hx hbuf⟩

/-! ### The dispatch -/

theorem exec_finishFrameReceive_ack :
    exec (.finishFrameReceive e [Config.ackTag]) s = exec (.ackBranch e) s := rfl

theorem exec_finishFrameReceive_of_ne_ack {f : List Byte} (hf : f ≠ [Config.ackTag]) :
    exec (.finishFrameReceive e f) s = exec (.dataBranch e f) s := by
  show execFinishFrameReceive e f s = execDataBranch e f s
  simp only [execFinishFrameReceive, if_neg hf, execDataBranch]

/-- `finishFrameReceive` as an operation of its own is the dispatch of `PROCESS` (45_par_fsm.md R172). -/
theorem exec_finishFrameReceive {f : List Byte} (hx : (s.ep e).canLoadTx) (hf : f ≠ []) :
    exec (.finishFrameReceive e f) s = .next (s.setEp e (dispatch f (s.ep e))) := by
  by_cases hack : f = [Config.ackTag]
  · subst hack
    rw [exec_finishFrameReceive_ack, dispatch, if_pos rfl]
    exact show execAckBranch e s = _ from perform_enabled (canDispatch_of_canLoadTx hx) rfl
  · rw [exec_finishFrameReceive_of_ne_ack hack, dispatch_of_ne_ack hack]
    exact show execDataBranch e f s = _ from perform_enabled hx (if_neg hf)

/-! ### `CHK_TIMEOUT` -/

theorem exec_chkTimeout_of_notAwaiting (hx : (s.ep e).enabledIn .timeout) (hw : (s.ep e).awaitingAck = false) :
    exec (.chkTimeout e) s = .next (s.inPhase e .top) :=
  show execChkTimeout e s = _ from perform_enabled hx (if_pos hw)

theorem exec_chkTimeout_of_not_expired (hx : (s.ep e).enabledIn .timeout) (hw : (s.ep e).awaitingAck = true)
    (ht : (s.ep e).timerStart ≠ 0) (hexp : expired s.cfg s.now (s.ep e).timerStart = false) :
    exec (.chkTimeout e) s = .next (s.inPhase e .top) :=
  show execChkTimeout e s = _ from perform_enabled hx (by simp [hw, ht, hexp])

theorem exec_chkTimeout_of_expired {f : List Byte} (hx : (s.ep e).enabledIn .timeout)
    (hw : (s.ep e).awaitingAck = true) (ht : (s.ep e).timerStart ≠ 0)
    (hexp : expired s.cfg s.now (s.ep e).timerStart = true) (hf : (s.ep e).lastFrame = some f) :
    exec (.chkTimeout e) s = .next (s.setEp e (loadEncoder f .retx ((s.ep e).logs [.retransmit]))) :=
  show execChkTimeout e s = _ from perform_enabled hx (by simp [hw, ht, hexp, hf])

/-- `CHK_TIMEOUT` is stuck only where an outstanding frame is not stored. -/
theorem exec_chkTimeout_completes (hx : (s.ep e).enabledIn .timeout)
    (hf : (s.ep e).awaitingAck = true → (s.ep e).lastFrame ≠ none) : ∃ t, exec (.chkTimeout e) s = .next t := by
  cases hw : (s.ep e).awaitingAck with
  | false => exact ⟨_, exec_chkTimeout_of_notAwaiting hx hw⟩
  | true =>
    obtain ⟨f, hf⟩ := Option.ne_none_iff_exists'.1 (hf hw)
    by_cases ht : (s.ep e).timerStart = 0
    · show ∃ t, execChkTimeout e s = .next t
      exact perform_completes fun k => by simp only [if_pos hx]; simp [hw, ht]
    · cases hexp : expired s.cfg s.now (s.ep e).timerStart with
      | false => exact ⟨_, exec_chkTimeout_of_not_expired hx hw ht hexp⟩
      | true => exact ⟨_, exec_chkTimeout_of_expired hx hw ht hexp hf⟩

/-! ### The ports -/

theorem exec_appPush {bs : List Byte} (h : fits s.cfg.sendbufDepth (s.ep e).sendBuffer bs = true) :
    exec (.appPush e bs) s = .next (s.setEp e { s.ep e with sendBuffer := (s.ep e).sendBuffer ++ bs }) :=
  show execAppPush e bs s = _ from perform_done (if_pos h)

theorem exec_phyRx {b : Bit} (h : fits s.cfg.phyqDepth (s.ep e).phyBitQueue [b] = true) :
    exec (.phyRx e b) s = .next (s.setEp e { s.ep e with phyBitQueue := (s.ep e).phyBitQueue ++ [b] }) :=
  show execPhyRx e b s = _ from perform_done (if_pos h)

theorem exec_stopReq : exec (.stopReq e) s = .next (s.setEp e { s.ep e with stopReq := true }) := rfl

theorem exec_appRetrieve : exec (.appRetrieve e) s =
    .next { s.setEp e { s.ep e with appBuffer := [] } with result := .bytes (s.ep e).appBuffer } := rfl

end

end Sys2Proof.Machine
end

/-! ## The event loop's operations and the ports, as the rules state them -/

section

namespace Sys2Proof.Machine

/-- Settles O11: both values of the stop flag. -/
theorem chkStopTestsTheStopFlag : Obligations.ChkStopTestsTheStopFlag := by
  intro s e hphase hfault
  have h := exec_chkStop ⟨hphase, hfault⟩
  exact ⟨fun hstop => by rw [h, hstop]; rfl, fun hstop => by rw [h, hstop]; rfl⟩

/-- Settles O12: the gate of `SEND_NEXT` closed, and open. -/
theorem sendNextSendsOneFrameThroughTheGate : Obligations.SendNextSendsOneFrameThroughTheGate := by
  intro s e hphase hfault
  refine ⟨exec_sendNext_of_sendsNothing ⟨hphase, hfault⟩, fun hgate hbuf => ?_⟩
  have htake : (s.ep e).sendBuffer.take (min 8 (s.ep e).sendBuffer.length) = (s.ep e).sendBuffer.take 8 :=
    List.take_eq_take_min.symm
  have hdrop : (s.ep e).sendBuffer.drop (min 8 (s.ep e).sendBuffer.length) = (s.ep e).sendBuffer.drop 8 :=
    List.drop_eq_drop_min.symm
  rw [exec_sendNext_of_gateOpen ⟨hphase, hfault⟩ hgate hbuf, htake, hdrop]
  rfl

/-- Settles O13: where `loadTx` is enabled, what it writes, and the four phases where it is not enabled. -/
theorem loadTxLoadsTheEncoder : Obligations.LoadTxLoadsTheEncoder := by
  intro s e f c hfault hscan
  refine ⟨fun hphase hlen => ⟨?_, by rw [length_serialize]; omega⟩, fun hphase => ?_⟩
  · rw [exec_loadTx ⟨hphase, hfault, hscan⟩]
    cases c <;> rfl
  · have hno : ¬ (s.ep e).canLoadTx := by rcases hphase with h | h | h | h <;> simp [h]
    exact show execLoadTx e f c s = _ from perform_notEnabled hno

/-- Settles O17: one continuation of `TX_DONE` after the other, that of an ACK with its two deliveries. -/
theorem txDoneEndsATransmission : Obligations.TxDoneEndsATransmission := by
  intro s e hphase hfault hshift
  have sent {c : TxCont} (hcont : (s.ep e).txCont = c) : (s.ep e).hasSent c := ⟨⟨hphase, hfault⟩, hshift, hcont⟩
  refine ⟨fun hcont => exec_txDone_of_data (sent hcont), fun f hcont hf => exec_txDone_of_retx (sent hcont) hf,
    fun r data hcont hrx hroom hr => ?_, fun r data hcont hrx hr => ?_⟩
  · have hfit : fits s.cfg.appbufDepth (s.ep e).appBuffer data = true := (fits_iff _ _ _).2 (or_iff_not_imp_left.2 hroom)
    rw [exec_txDone_of_delivered (sent hcont) (by rw [hrx]; exact deliverSequence_of_inSequence hr hfit)]
    simp [clearTx, flip, Endpoint.logs]
  · rw [exec_txDone_of_delivered (sent hcont) (by rw [hrx]; exact deliverSequence_of_duplicate hr)]
    simp [clearTx, Endpoint.logs]

/-- Settles O19: no byte, no frame, and a frame, whose handling is `finishFrameReceive` on the buffer and the trace that
the call gives. -/
theorem processParsesAtMostOneFrame : Obligations.ProcessParsesAtMostOneFrame := by
  intro s e hphase hfault hscan
  have hx : (s.ep e).enabledIn .process := ⟨hphase, hfault⟩
  refine ⟨exec_process_of_nil hx hscan, fun hbuf hres => ?_, fun f hbuf hres => ⟨?_, exec_process_completes hx⟩⟩
  all_goals
    rw [exec_process_of_ne_nil hx hbuf]
    generalize hp : processFrame (s.ep e).receiveBuffer = p at hres ⊢
    obtain ⟨rest, res, evs⟩ := p
    subst hres
  · rw [handleParsed_noFrame hscan]
  · have hne : f ≠ [] := processFrame_frame_ne_nil (congrArg Parsed.res hp)
    rw [handleParsed_frame hscan, exec_finishFrameReceive (by simp [hphase, hfault, hscan]) hne]
    simp

/-- Settles O22, from what `fits` decides. -/
theorem pushPortsAppendAtTheTail : Obligations.PushPortsAppendAtTheTail := by
  intro s e
  refine ⟨fun bs hroom => exec_appPush ((fits_iff _ _ _).2 (.inr hroom)),
    fun b hroom => exec_phyRx ((fits_iff _ _ _).2 (.inr hroom)), ?_⟩
  rw [exec_appPush (fits_nil _ _), List.append_nil]
  exact congrArg _ (setEp_ep s e)

/-- Settles O23: the second retrieval finds the buffer that the first one has emptied. -/
theorem appRetrieveReturnsAndEmpties : Obligations.AppRetrieveReturnsAndEmpties := by
  intro s e
  refine ⟨exec_appRetrieve, ?_⟩
  rw [runOps_cons_of_next exec_appRetrieve, runOps_cons_of_next exec_appRetrieve, runOps]
  cases e <;> rfl

/-- Settles O24: the request, the second request, and the `CHK_STOP` that sees it. -/
theorem stopReqTakesEffectAtTheNextChkStop : Obligations.StopReqTakesEffectAtTheNextChkStop := by
  intro s e
  refine ⟨exec_stopReq, ?_, fun hphase hfault => ?_⟩
  · rw [runOps_cons_of_next exec_stopReq, runOps_cons_of_next exec_stopReq, exec_stopReq, runOps]
    simp
  · rw [runOps_cons_of_next exec_stopReq,
      runOps_cons_of_next (exec_chkStop (by rw [ep_setEp]; exact ⟨hphase, hfault⟩)), runOps]
    simp [State.inPhase]

/-- Settles O25: unbounded time has no wrap. -/
theorem timeAdvMovesTheClock : Obligations.TimeAdvMovesTheClock := by
  intro s d hwidth
  show execTimeAdv d s = _
  simp only [execTimeAdv, advance, hwidth]

end Sys2Proof.Machine
end

/-! ## What is not enabled -/

section

namespace Sys2Proof.Machine

section
variable {s : State} {e : EndpointId}

/-- The byte codes are enabled in `P_PROCESS` of an endpoint without a fault only (log 8). -/
theorem not_scanSees_of_not_enabled {x : Endpoint} {m : ScanMode} {b : Byte}
    (h : x.phase ≠ .process ∨ x.fault ≠ none) : ¬ x.scanSees m b :=
  not_and_or.2 (.inl (not_and_or.2 h))

/-- The byte codes are enabled in one state of the destuffer, on one byte (44_destuff_processframe.md R166). -/
theorem not_scanSees_of_elsewhere {x : Endpoint} {m : ScanMode} {b : Byte}
    (h : x.scan.mode ≠ m ∨ x.receiveBuffer[x.scan.pos]? ≠ some b) : ¬ x.scanSees m b :=
  not_and_or.2 (.inr (not_and_or.2 h))

theorem exec_startHunt_notEnabled (h : ¬ (s.ep e).scanSees .hunt Config.startTag) :
    exec (.startHunt e) s = .fault .notEnabled :=
  show execStartHunt e s = _ from perform_notEnabled h

theorem exec_garbageHunt_notEnabled {b : Byte} (h : ¬ ((s.ep e).scanSees .hunt b ∧ b ≠ Config.startTag)) :
    exec (.garbageHunt e b) s = .fault .notEnabled :=
  show execGarbageHunt e b s = _ from perform_notEnabled h

theorem exec_start_notEnabled (h : ¬ (s.ep e).scanSees .inFrame Config.startTag) :
    exec (.start e) s = .fault .notEnabled :=
  show execStart e s = _ from perform_notEnabled h

theorem exec_stop_notEnabled (h : ¬ (s.ep e).scanSees .inFrame Config.stopTag) :
    exec (.stop e) s = .fault .notEnabled :=
  show execStop e s = _ from perform_notEnabled h

theorem exec_esc_notEnabled (h : ¬ (s.ep e).scanSees .inFrame Config.escTag) :
    exec (.esc e) s = .fault .notEnabled :=
  show execEsc e s = _ from perform_notEnabled h

theorem exec_literal_notEnabled {b : Byte} (h : ¬ ((s.ep e).scanSees .inFrame b ∧ isTag b = false)) :
    exec (.literal e b) s = .fault .notEnabled :=
  show execLiteral e b s = _ from perform_notEnabled h

theorem exec_literalEscaped_notEnabled {b : Byte} (h : ¬ (s.ep e).scanSees .escaped b) :
    exec (.literalEscaped e b) s = .fault .notEnabled :=
  show execLiteralEscaped e b s = _ from perform_notEnabled h

theorem exec_escPair_notEnabled {b : Byte} (h : ¬ ((s.ep e).scanSees .inFrame Config.escTag ∧
      (s.ep e).receiveBuffer[(s.ep e).scan.pos + 1]? = some b)) :
    exec (.escPair e b) s = .fault .notEnabled :=
  show execEscPair e b s = _ from perform_notEnabled h

/-- A frame code is enabled where its encoding stands at the head of the receive buffer (log 9). -/
theorem exec_frameCode_notEnabled {i : Instr} (hp : positionOf i = some (.frame e))
    (h : ¬ (s.ep e).frameAtHead (encode i)) : exec i s = .fault .notEnabled := by
  have stuck {res : ParseResult} {evs : List Event} :
      perform e s (consumeFrame (encode i) res evs) = .fault .notEnabled := perform_stuck (if_neg h)
  cases i with
  | ackFrameCode e' | emptyFrame e' => cases hp; exact stuck
  | dataFrame e' d q => cases hp; exact stuck
  | oneByteFrame e' b => cases hp; exact stuck
  | _ => cases hp

/-- The ways in which a frame code's condition can fail (log 9). -/
theorem not_frameAtHead {x : Endpoint} {f : List Byte}
    (h : x.phase ≠ .process ∨ x.fault ≠ none ∨ x.scan ≠ Scan.idle ∨ ¬ f <+: x.receiveBuffer) : ¬ x.frameAtHead f := by
  rintro ⟨⟨hphase, hfault⟩, hscan, hpre⟩
  rw [List.isPrefixOf_iff_prefix] at hpre
  tauto

theorem exec_ackBranch_notEnabled (h : ¬ (s.ep e).canDispatch) : exec (.ackBranch e) s = .fault .notEnabled :=
  show execAckBranch e s = _ from perform_notEnabled h

theorem exec_dataBranch_notEnabled {f : List Byte} (h : ¬ (s.ep e).canLoadTx) :
    exec (.dataBranch e f) s = .fault .notEnabled :=
  show execDataBranch e f s = _ from perform_notEnabled h

end

/-- Settles O21: each clause denies the enabling condition of its operation. -/
theorem operationsOutOfPlaceAreNotEnabled : Obligations.OperationsOutOfPlaceAreNotEnabled := by
  intro s e draw b
  refine ⟨fun h => show execChkStop e s = _ from perform_notEnabled (not_and_or.2 h),
    fun h => show execSendNext e s = _ from perform_notEnabled (not_and_or.2 h),
    fun h => exec_txBit_notEnabled (by tauto),
    fun h => show execTxDone e s = _ from perform_notEnabled (by tauto),
    fun h => show execDrain e s = _ from perform_notEnabled (not_and_or.2 h),
    fun h => show execProcess e s = _ from perform_notEnabled (not_and_or.2 h),
    fun h => show execChkTimeout e s = _ from perform_notEnabled (not_and_or.2 h),
    fun h => ?byteCodes,
    fun h => exec_startHunt_notEnabled (not_scanSees_of_elsewhere h),
    fun h => exec_garbageHunt_notEnabled ?garbage,
    fun h => exec_start_notEnabled (not_scanSees_of_elsewhere h),
    fun h => exec_stop_notEnabled (not_scanSees_of_elsewhere h),
    fun h => ⟨exec_esc_notEnabled (not_scanSees_of_elsewhere h),
      exec_escPair_notEnabled fun hp => not_scanSees_of_elsewhere h hp.1⟩,
    fun h => exec_escPair_notEnabled fun hp => h hp.2,
    fun h => exec_literal_notEnabled ?literal,
    fun h => exec_literalEscaped_notEnabled (not_scanSees_of_elsewhere h),
    fun i hi h => exec_frameCode_notEnabled hi (not_frameAtHead h),
    fun f h => show execFinishFrameSend e f s = _ from perform_notEnabled (by tauto),
    fun f h => show execDeliverHalf e f s = _ from perform_notEnabled (by tauto),
    fun h => ?observe, fun f c h => ?load⟩
  case byteCodes =>
    have hno (m : ScanMode) (c : Byte) : ¬ (s.ep e).scanSees m c := not_scanSees_of_not_enabled h
    exact ⟨exec_startHunt_notEnabled (hno _ _), exec_garbageHunt_notEnabled fun hp => hno _ _ hp.1,
      exec_start_notEnabled (hno _ _), exec_stop_notEnabled (hno _ _), exec_esc_notEnabled (hno _ _),
      exec_literal_notEnabled fun hp => hno _ _ hp.1, exec_literalEscaped_notEnabled (hno _ _),
      exec_escPair_notEnabled fun hp => hno _ _ hp.1⟩
  case garbage =>
    rintro ⟨⟨-, hmode, hbyte⟩, hb⟩
    exact h.elim (· hmode) (Or.elim · (· hbyte) hb)
  case literal =>
    rintro ⟨⟨-, hmode, hbyte⟩, htag⟩
    rcases h with h | h | h
    · exact h hmode
    · exact h hbyte
    · rw [(isTag_iff b).2 h] at htag
      cases htag
  case observe =>
    have hno : ¬ (s.ep e).canDispatch := by rintro ⟨⟨hfault, hstop⟩, htx, hscan⟩; tauto
    have hack := exec_ackBranch_notEnabled hno
    exact ⟨hack, hack, hack⟩
  case load =>
    have hno : ¬ (s.ep e).canLoadTx := by rintro ⟨hphase, hfault, hscan⟩; tauto
    have hdata := exec_dataBranch_notEnabled (f := f) hno
    exact ⟨show execLoadTx e f c s = _ from perform_notEnabled hno, hdata,
      fun hf => (exec_finishFrameReceive_of_ne_ack hf).trans hdata⟩

end Sys2Proof.Machine
end

/-! ## The unscripted step -/

section

namespace Sys2Proof.Machine

/-! ### The event-loop operation of a phase -/

section
variable {e : EndpointId} {draw : Bit} {x : Endpoint}

theorem loopOperation_top (h : x.enabledIn .top) : loopOperation e draw x = some (.chkStop e) := by
  simp [loopOperation, h.1, h.2]

theorem loopOperation_send (h : x.enabledIn .send) : loopOperation e draw x = some (.sendNext e) := by
  simp [loopOperation, h.1, h.2]

theorem loopOperation_txBit (h : x.enabledIn .tx) (hb : x.txShift ≠ []) :
    loopOperation e draw x = some (.txBit e draw) := by
  simp [loopOperation, h.1, h.2, hb]

theorem loopOperation_txDone (h : x.enabledIn .tx) (hb : x.txShift = []) :
    loopOperation e draw x = some (.txDone e) := by
  simp [loopOperation, h.1, h.2, hb]

theorem loopOperation_drain (h : x.enabledIn .drain) : loopOperation e draw x = some (.drain e) := by
  simp [loopOperation, h.1, h.2]

theorem loopOperation_process (h : x.enabledIn .process) : loopOperation e draw x = some (.process e) := by
  simp [loopOperation, h.1, h.2]

theorem loopOperation_timeout (h : x.enabledIn .timeout) : loopOperation e draw x = some (.chkTimeout e) := by
  simp [loopOperation, h.1, h.2]

/-- The event loop has no operation exactly where the endpoint's run is over (40_event_loop.md R97). -/
theorem loopOperation_eq_none_iff : loopOperation e draw x = none ↔ x.over := by
  unfold loopOperation Endpoint.over
  cases x.fault <;> cases x.phase <;> simp
  split <;> simp

end

/-! ### The step with an empty script -/

section
variable {s : State} {i : Instr}

/-- An unscripted operation is that of an endpoint whose run is not over. -/
theorem unscripted_eq_some (h : unscripted s = some i) :
    ∃ e draw, ¬ (s.ep e).over ∧ loopOperation e draw (s.ep e) = some i := by
  have live {e draw} (hl : loopOperation e draw (s.ep e) = some i) :
      ∃ e draw, ¬ (s.ep e).over ∧ loopOperation e draw (s.ep e) = some i :=
    ⟨e, draw, fun ho => by simp [loopOperation_eq_none_iff.2 ho] at hl, hl⟩
  unfold unscripted at h
  dsimp only at h
  split at h
  · next hl => exact live (hl.trans h)
  · exact live h

/-- There is no unscripted operation exactly where both endpoints are over. -/
theorem unscripted_eq_none_iff : unscripted s = none ↔ ∀ e, (s.ep e).over := by
  have both (e : EndpointId) : (∀ f, (s.ep f).over) ↔ (s.ep e).over ∧ (s.ep (peer e)).over :=
    ⟨fun h => ⟨h e, h (peer e)⟩, fun ⟨h, h'⟩ f => by rcases eq_or_eq_peer e f with rfl | rfl <;> assumption⟩
  rw [both (Config.schedule s.tick)]
  unfold unscripted
  dsimp only
  split
  · next hl =>
    have hlive : ¬ (s.ep (Config.schedule s.tick)).over := fun ho => by
      simp [loopOperation_eq_none_iff.2 ho] at hl
    exact ⟨nofun, fun h => absurd h.1 hlive⟩
  · next hl =>
    rw [loopOperation_eq_none_iff] at hl ⊢
    exact (and_iff_right hl).symm

theorem step_of_unscripted (hs : s.script = []) (h : unscripted s = some i) :
    step s = exec i { s with tick := s.tick + 1 } := by
  simp [step, fetch, hs, h]

theorem step_of_over (hs : s.script = []) (h : unscripted s = none) : step s = .fault .runOver := by
  simp [step, fetch, hs, h]

/-- Where an endpoint's run is not over, the unscripted step runs the loop operation of such an endpoint. -/
theorem step_eq_loopOperation (hs : s.script = []) (h : ∃ e, ¬ (s.ep e).over) :
    ∃ e draw i, ¬ (s.ep e).over ∧ loopOperation e draw (s.ep e) = some i ∧
      step s = exec i { s with tick := s.tick + 1 } := by
  have hsome : unscripted s ≠ none := fun hn => by
    obtain ⟨e, he⟩ := h
    exact he (unscripted_eq_none_iff.1 hn e)
  obtain ⟨i, hi⟩ := Option.ne_none_iff_exists'.1 hsome
  obtain ⟨e, draw, hlive, hl⟩ := unscripted_eq_some hi
  exact ⟨e, draw, i, hlive, hl, step_of_unscripted hs hi⟩

end

/-- Settles O5: each phase of the chosen endpoint fixes its loop operation. -/
theorem unscriptedStepRunsAnEnabledLoopOperation : Obligations.UnscriptedStepRunsAnEnabledLoopOperation := by
  intro s hs
  refine ⟨fun hlive => ?_, fun hover => step_of_over hs (unscripted_eq_none_iff.2 hover)⟩
  obtain ⟨e, draw, i, he, hl, hstep⟩ := step_eq_loopOperation hs hlive
  have hfault : (s.ep e).fault = none := not_not.1 (not_or.1 he).2
  have fixed {j : Instr} (h : loopOperation e draw (s.ep e) = some j) : i = j := Option.some.inj (hl.symm.trans h)
  exact ⟨e, draw, i, he, fun hp => fixed (loopOperation_top ⟨hp, hfault⟩),
    fun hp => fixed (loopOperation_send ⟨hp, hfault⟩), fun hp hb => fixed (loopOperation_txBit ⟨hp, hfault⟩ hb),
    fun hp hb => fixed (loopOperation_txDone ⟨hp, hfault⟩ hb), fun hp => fixed (loopOperation_drain ⟨hp, hfault⟩),
    fun hp => fixed (loopOperation_process ⟨hp, hfault⟩), fun hp => fixed (loopOperation_timeout ⟨hp, hfault⟩), hstep⟩

/-! ### The invariants exclude the stops of an event loop -/

section
variable {s : State} {e : EndpointId}

/-- An endpoint in `P_TX` is loaded with a continuation, which has what it needs (10_state.md R17). -/
theorem exec_txDone_completes (hinv : (s.ep e).Inv s.now) (hframes : (s.ep e).Frames) (hx : (s.ep e).enabledIn .tx)
    (hb : (s.ep e).txShift = []) : ∃ t, exec (.txDone e) s = .next t := by
  cases hcont : (s.ep e).txCont with
  | cNone => exact absurd hcont (hinv.encoder.2 hx.1).1
  | cData => exact ⟨_, exec_txDone_of_data ⟨hx, hb, hcont⟩⟩
  | cRetx => exact ⟨_, exec_txDone_of_retx ⟨hx, hb, hcont⟩ (hframes.retx hx.1 hcont)⟩
  | cAck =>
    obtain ⟨-, hrx⟩ := hframes.ack hx.1 hcont
    show ∃ t, execTxDone e s = .next t
    refine perform_completes fun f => ?_
    simp only [if_pos (And.intro hx hb), hcont]
    exact finishAck_ne_stuck hrx f

/-- Every loop operation of an endpoint that meets the invariants completes. -/
theorem loopOperation_completes {draw : Bit} {i : Instr} (hinv : (s.ep e).Inv s.now) (hframes : (s.ep e).Frames)
    (h : loopOperation e draw (s.ep e) = some i) : ∃ t, exec i s = .next t := by
  have hover : ¬ (s.ep e).over := fun ho => by simp [loopOperation_eq_none_iff.2 ho] at h
  obtain ⟨hstop, hfault⟩ := not_or.1 hover
  have enabled {p : Phase} (hp : (s.ep e).phase = p) : (s.ep e).enabledIn p := ⟨hp, not_not.1 hfault⟩
  cases hp : (s.ep e).phase with
  | stopped => exact absurd hp hstop
  | top =>
    cases (loopOperation_top (enabled hp)).symm.trans h
    exact ⟨_, exec_chkStop (enabled hp)⟩
  | send =>
    cases (loopOperation_send (enabled hp)).symm.trans h
    by_cases hgate : (s.ep e).sendsNothing
    · exact ⟨_, exec_sendNext_of_sendsNothing (enabled hp) hgate⟩
    · obtain ⟨hw, hb⟩ := not_or.1 hgate
      exact ⟨_, exec_sendNext_of_gateOpen (enabled hp) (by simpa using hw) hb⟩
  | tx =>
    by_cases hb : (s.ep e).txShift = []
    · cases (loopOperation_txDone (enabled hp) hb).symm.trans h
      exact exec_txDone_completes hinv hframes (enabled hp) hb
    · cases (loopOperation_txBit (enabled hp) hb).symm.trans h
      exact exec_txBit_completes (enabled hp) hb
  | drain =>
    cases (loopOperation_drain (enabled hp)).symm.trans h
    exact exec_drain_completes (enabled hp)
  | process =>
    cases (loopOperation_process (enabled hp)).symm.trans h
    exact exec_process_completes (enabled hp)
  | timeout =>
    cases (loopOperation_timeout (enabled hp)).symm.trans h
    refine exec_chkTimeout_completes (enabled hp) fun hw hnone => ?_
    have hidle := hinv.sender.1.2 hnone
    rw [hw] at hidle
    cases hidle

end

/-- Settles O10: the step runs a loop operation, and the invariants of a run exclude its stops. -/
theorem theEventLoopsNeverGetStuck : Obligations.TheEventLoopsNeverGetStuck := by
  intro s hs hscript hlive
  obtain ⟨e, draw, i, -, hl, hstep⟩ := step_eq_loopOperation hscript hlive
  rw [hstep]
  have hep : ({ s with tick := s.tick + 1 } : State).ep e = s.ep e := ep_with_tick s (s.tick + 1) e
  rw [← hep] at hl
  exact loopOperation_completes (by rw [hep]; exact hs.inv.endpoints e) (by rw [hep]; exact hs.frames e) hl

end Sys2Proof.Machine
end

/-! ## The idle iteration, and finite time -/

section

namespace Sys2Proof.Machine

/-! ### An iteration with nothing to do -/

/-- Nothing to do in any phase: no stop request, nothing queued but the bits of an unfinished byte, nothing outstanding,
no parse in progress, no fault (40_event_loop.md R99). -/
structure Endpoint.Idle (x : Endpoint) : Prop where
  fault : x.fault = none
  stopReq : x.stopReq = false
  sendBuffer : x.sendBuffer = []
  phyBitQueue : x.phyBitQueue = []
  bitBuffer : x.bitBuffer.length < 8
  receiveBuffer : x.receiveBuffer = []
  awaitingAck : x.awaitingAck = false
  scan : x.scan = Scan.idle

section
variable {s : State} {e : EndpointId}

/-- Idleness does not speak of the phase. -/
theorem Endpoint.Idle.inPhase (h : (s.ep e).Idle) (p : Phase) : ((s.inPhase e p).ep e).Idle := by
  rw [ep_inPhase]
  exact { h with }

theorem Endpoint.Idle.enabledIn (h : (s.ep e).Idle) (p : Phase) : ((s.inPhase e p).ep e).enabledIn p := by
  rw [ep_inPhase]
  exact ⟨rfl, h.fault⟩

theorem Endpoint.Idle.chkStop (h : (s.ep e).Idle) :
    exec (.chkStop e) (s.inPhase e .top) = .next (s.inPhase e .send) := by
  rw [exec_chkStop (h.enabledIn .top), (h.inPhase .top).stopReq]
  simp

theorem Endpoint.Idle.sendNext (h : (s.ep e).Idle) :
    exec (.sendNext e) (s.inPhase e .send) = .next (s.inPhase e .drain) := by
  rw [exec_sendNext_of_sendsNothing (h.enabledIn .send) (.inr (h.inPhase .send).sendBuffer), inPhase_inPhase]

theorem Endpoint.Idle.drain (h : (s.ep e).Idle) :
    exec (.drain e) (s.inPhase e .drain) = .next (s.inPhase e .process) := by
  have hd := h.inPhase .drain
  rw [exec_drain_of_short (h.enabledIn .drain) hd.phyBitQueue hd.bitBuffer, inPhase_inPhase]

theorem Endpoint.Idle.process (h : (s.ep e).Idle) :
    exec (.process e) (s.inPhase e .process) = .next (s.inPhase e .timeout) := by
  have hp := h.inPhase .process
  rw [exec_process_of_nil (h.enabledIn .process) hp.scan hp.receiveBuffer, inPhase_inPhase]

theorem Endpoint.Idle.chkTimeout (h : (s.ep e).Idle) :
    exec (.chkTimeout e) (s.inPhase e .timeout) = .next (s.inPhase e .top) := by
  rw [exec_chkTimeout_of_notAwaiting (h.enabledIn .timeout) (h.inPhase .timeout).awaitingAck, inPhase_inPhase]

@[simp] theorem andThen_next (t : State) (f : State → Outcome) : andThen (.next t) f = f t := rfl

/-- Outside `P_TX` no transmission stands between the operations of an iteration. -/
theorem sendLoaded_inPhase {p : Phase} (hp : p ≠ .tx) : sendLoaded e (s.inPhase e p) = .next (s.inPhase e p) :=
  if_neg (by simpa using hp)

/-- The five operations, phase by phase. -/
theorem Endpoint.Idle.runOps_loop (h : (s.ep e).Idle) :
    runOps [.chkStop e, .sendNext e, .drain e, .process e, .chkTimeout e] (s.inPhase e .top) =
      .next (s.inPhase e .top) := by
  rw [runOps_cons_of_next h.chkStop, runOps_cons_of_next h.sendNext, runOps_cons_of_next h.drain,
    runOps_cons_of_next h.process, runOps_cons_of_next h.chkTimeout, runOps]

/-- The same pass as `ITERATE`, which finds no transmission to send (30_encoding.md R86). -/
theorem Endpoint.Idle.iterate (h : (s.ep e).Idle) : iterate e (s.inPhase e .top) = .next (s.inPhase e .top) := by
  have hgoes : ((s.inPhase e .send).ep e).phase ≠ .stopped := by simp
  simp only [Machine.iterate, h.chkStop, andThen_next, if_neg hgoes, h.sendNext, h.drain, h.process, h.chkTimeout,
    sendLoaded_inPhase, ne_eq, reduceCtorEq, not_false_eq_true]

end

/-- Settles O53: an idle endpoint passes through the five phases, and is back in the first. -/
theorem anIdleIterationChangesNothing : Obligations.AnIdleIterationChangesNothing := by
  intro s e hphase hfault hstop hsend hqueue hbits hbuf hgate hscan
  have h : (s.ep e).Idle := ⟨hfault, hstop, hsend, hqueue, Nat.lt_succ_of_le hbits, hbuf, hgate, hscan⟩
  have hrun := h.runOps_loop
  have hiter := h.iterate
  rw [inPhase_of_phase hphase] at hrun hiter
  exact ⟨hrun, hiter⟩

/-! ### Time modulo `2^w` -/

/-- Fewer than `m` ticks since the start are seen as they are, across a wrap of the clock too. -/
theorem ticks_since_start_mod {m start k : Nat} (hstart : start < m) (hk : k < m) :
    ((start + k) % m + m - start) % m = k := by
  by_cases hwrap : start + k < m
  · rw [Nat.mod_eq_of_lt hwrap, show start + k + m - start = k + m by omega, Nat.add_mod_right, Nat.mod_eq_of_lt hk]
  · have hmod : (start + k) % m = start + k - m := by
      rw [Nat.mod_eq_sub_mod (by omega), Nat.mod_eq_of_lt (by omega)]
    rw [hmod, show start + k - m + m - start = k by omega, Nat.mod_eq_of_lt hk]

/-- The timer comparison, `k` ticks after the start, with a finite `TIME_WIDTH` (70_reset_and_hazards.md R253). -/
theorem expired_of_ticks {cfg : Params} {w now start k : Nat} (hwidth : cfg.timeWidth = some w)
    (hstart : start < 2 ^ w) (hk : k < 2 ^ w) (hnow : now = (start + k) % 2 ^ w) :
    expired cfg now start = decide (100 * cfg.ticksPerMs < k) := by
  have helapsed : elapsed cfg now start = k := by
    simp only [elapsed, hwidth, hnow]
    exact ticks_since_start_mod hstart hk
  rw [expired, helapsed, Config.timeoutTicks, Config.timeoutMs]

/-- Settles O60: the clock wraps, and the timer sees the ticks since its start. -/
theorem aFiniteTimeWidthWraps : Obligations.AFiniteTimeWidthWraps := by
  intro s w hwidth
  refine ⟨fun d => ?_, fun e k hphase hfault hw ht hstart hk hnow => ?_⟩
  · show execTimeAdv d s = _
    simp only [execTimeAdv, advance, hwidth]
  · have hexp := expired_of_ticks hwidth hstart hk hnow
    refine ⟨fun hle => ?_, fun f hgt hf => ?_⟩
    · exact exec_chkTimeout_of_not_expired ⟨hphase, hfault⟩ hw ht (hexp.trans (decide_eq_false (by omega)))
    · exact exec_chkTimeout_of_expired ⟨hphase, hfault⟩ hw ht (hexp.trans (decide_eq_true hgt)) hf

end Sys2Proof.Machine
end

/-! ## The serializer and the byte assembler

`TX_BIT` on the open port, `DRAIN` by its one equation over what the byte assembler gives, and the assembler as the
inverse of `serialize` on whole bytes, whatever follows them. -/

section

namespace Sys2Proof.Machine

/-! ### The byte assembler -/

/-- Whole bytes at the head of the stream are assembled as they were serialized; the assembler goes on with the bits
after them (41_serdes.md R113, R114). -/
theorem regroup_serialize_append (f : List Byte) (l : List Bit) :
    regroup (serialize f ++ l) = (f ++ (regroup l).1, (regroup l).2) := by
  induction f with
  | nil => simp
  | cons b f ih => rw [serialize_cons, List.append_assoc, regroup_bitsMSB, ih]; rfl

/-- A stream cut anywhere: the bits left over from the first part stand before the second (41_serdes.md R115). -/
theorem regroup_append (a b : List Bit) :
    regroup (a ++ b) = ((regroup a).1 ++ (regroup ((regroup a).2 ++ b)).1, (regroup ((regroup a).2 ++ b)).2) := by
  obtain ⟨hsplit, -⟩ := regroup_spec a
  calc regroup (a ++ b)
      = regroup (serialize (regroup a).1 ++ ((regroup a).2 ++ b)) := by rw [← List.append_assoc, ← hsplit]
    _ = _ := regroup_serialize_append _ _

/-- The bytes assembled fit where there is room for every whole byte of the waiting bits (41_serdes.md R114). -/
theorem fits_regroup {depth : Option Nat} {q : List Byte} {l : List Bit}
    (hroom : 8 ≤ l.length → ∀ n, depth = some n → q.length + l.length / 8 ≤ n) :
    fits depth q (regroup l).1 = true := by
  obtain ⟨-, -, hcount, -⟩ := regroup_spec l
  rw [fits_iff, hcount]
  by_cases hlong : 8 ≤ l.length
  · exact .inr (hroom hlong)
  · exact .inl (List.length_eq_zero_iff.1 (by omega))

/-! ### `DRAIN` and `TX_BIT` -/

section
variable {s : State} {e : EndpointId}

/-- `DRAIN` of bits and bytes that fit (41_serdes.md R114). -/
theorem exec_drain (hx : (s.ep e).enabledIn .drain)
    (hbits : fits s.cfg.bitbufDepth (s.ep e).bitBuffer (s.ep e).phyBitQueue = true)
    (hbytes : fits s.cfg.rxbufDepth (s.ep e).receiveBuffer
      (regroup ((s.ep e).bitBuffer ++ (s.ep e).phyBitQueue)).1 = true) :
    exec (.drain e) s = .next (s.setEp e { s.ep e with
      phyBitQueue := []
      bitBuffer := (regroup ((s.ep e).bitBuffer ++ (s.ep e).phyBitQueue)).2
      receiveBuffer := (s.ep e).receiveBuffer ++ (regroup ((s.ep e).bitBuffer ++ (s.ep e).phyBitQueue)).1
      phase := .process }) :=
  show execDrain e s = _ from perform_enabled hx (if_pos ⟨hbits, hbytes⟩)

/-- `TX_BIT` of the open model puts the head of `txShift` on the port (41_serdes.md R112). -/
theorem exec_txBit_of_openPort {b draw : Bit} {rest : List Bit} (hx : (s.ep e).enabledIn .tx)
    (hb : (s.ep e).txShift = b :: rest) (hport : s.cfg.wiring = .openPort) :
    exec (.txBit e draw) s =
      .next (s.setEp e { s.ep e with txShift := rest, phyTx := (s.ep e).phyTx ++ [b] }) := by
  show execTxBit e draw s = _
  simp only [execTxBit, hb, if_pos hx, hport]

end

/-- Settles O18: the bytes and the bits left are those of the byte assembler. -/
theorem drainAssemblesBytesInOrder : Obligations.DrainAssemblesBytesInOrder := by
  intro s e hphase hfault hbitRoom hbyteRoom
  rw [← List.length_append] at hbyteRoom ⊢
  obtain ⟨hsplit, -, hbytes, hleft⟩ := regroup_spec ((s.ep e).bitBuffer ++ (s.ep e).phyBitQueue)
  have hfits : fits s.cfg.bitbufDepth (s.ep e).bitBuffer (s.ep e).phyBitQueue = true :=
    (fits_iff _ _ _).2 (or_iff_not_imp_left.2 hbitRoom)
  exact ⟨_, _, hsplit, hbytes, hleft, exec_drain ⟨hphase, hfault⟩ hfits (fits_regroup hbyteRoom)⟩

/-- Settles O49: what is serialized comes back whole, and a cut of the stream loses nothing. -/
theorem decoderInvertsEncoder : Obligations.DecoderInvertsEncoder := ⟨regroup_serialize, regroup_append⟩

/-- Settles O15: the open port's case of `TX_BIT`. -/
theorem txBitOutputsOnTheOpenPort : Obligations.TxBitOutputsOnTheOpenPort :=
  fun _ _ _ _ _ hphase hfault hb hport => exec_txBit_of_openPort ⟨hphase, hfault⟩ hb hport

end Sys2Proof.Machine
end

/-! ## The pure functions and the sender's codes, run as operations

Each function's value as its rule writes it; run as an operation, a function returns its value and changes nothing else
(log 7). -/

section

namespace Sys2Proof.Machine

/-! ### The values -/

/-- Eight bits weighted by the powers of two, the first received the heaviest (41_serdes.md R113). -/
theorem assemble_eq (b7 b6 b5 b4 b3 b2 b1 b0 : Bit) :
    assemble [b7, b6, b5, b4, b3, b2, b1, b0] = BitVec.ofNat 8 (128 * b7.toNat + 64 * b6.toNat + 32 * b5.toNat +
      16 * b4.toNat + 8 * b3.toNat + 4 * b2.toNat + 2 * b1.toNat + b0.toNat) := by
  have hweight (w : Nat) (b : Bit) : (if b then w else 0) = w * b.toNat := by cases b <;> simp
  simp [assemble, byteMSB, hweight, Nat.add_assoc]

/-- The parity byte is the sum of the popcounts modulo 2 (42_parity.md R125). -/
theorem parity_eq (l : List Byte) : parity l = BitVec.ofNat 8 ((l.map popcount8).sum % 2) := by
  rw [parity, parityBit]
  rcases Nat.mod_two_eq_zero_or_one (l.map popcount8).sum with h | h <;> rw [h] <;> rfl

/-- Exactly the three tags are escaped (43_stuff_createframe.md R135). -/
theorem stuff_eq (b : Byte) : stuff b = if b = 0x7B#8 ∨ b = 0x7D#8 ∨ b = 0x5C#8 then [0x5C#8, b] else [b] := by
  simp only [stuff, isTag_iff, Config.startTag, Config.stopTag, Config.escTag]

/-! ### The operations -/

section
variable (s : State)

theorem exec_assemble {l : List Bit} (h : l.length = 8) :
    exec (.assemble l) s = .next { s with result := .byte (assemble l) } :=
  show execAssemble l s = _ from if_pos h

theorem exec_assemble_of_length_ne {l : List Bit} (h : l.length ≠ 8) :
    exec (.assemble l) s = .fault .operandOutsideDomain :=
  show execAssemble l s = _ from if_neg h

theorem exec_parity (l : List Byte) : exec (.parity l) s = .next { s with result := .byte (parity l) } := rfl

theorem exec_stuff (b : Byte) : exec (.stuff b) s = .next { s with result := .bytes (stuff b) } := rfl

end

/-- Settles O27: the three functions whose rule is an arithmetic or a case split by their values above; the others return
what their rule writes out. -/
theorem pureFunctionsAndCodesReturnTheirValue : Obligations.PureFunctionsAndCodesReturnTheirValue := by
  intro s
  refine ⟨fun _ => rfl, fun b7 b6 b5 b4 b3 b2 b1 b0 => ?assemble, fun _ => exec_assemble_of_length_ne s,
    fun l => ?parity, fun b => ?stuff, fun _ => rfl, fun _ _ => rfl, rfl, fun _ => rfl, fun _ _ => rfl,
    rfl, rfl, rfl, rfl, rfl, rfl, rfl⟩
  case assemble => rw [exec_assemble s rfl, assemble_eq]
  case parity => rw [exec_parity, parity_eq]
  case stuff => rw [exec_stuff, stuff_eq]

end Sys2Proof.Machine
end

/-! ## Parity

The parity bit as the XOR of the serialized bits. The differing bits of two contents then have the XOR of their two
parity bits as parity, so two parity-correct contents differ in an even number of bits. -/

section

namespace Sys2Proof.Machine

/-! ### XOR over a list of bits -/

/-- Folding `xor` over bits counts the 1 bits modulo 2. -/
theorem foldl_xor_eq (l : List Bit) (q : Bit) : l.foldl xor q = xor q (decide (l.count true % 2 = 1)) := by
  induction l generalizing q with
  | nil => simp
  | cons b l ih =>
    rw [List.foldl_cons, ih]
    rcases Nat.mod_two_eq_zero_or_one (l.count true) with h | h <;> cases b <;> simp [Nat.add_mod, h]

/-- The XOR of the differing bits is the XOR of both lists' bits. -/
theorem foldl_xor_zipWith {a b : List Bit} (h : a.length = b.length) (q r : Bit) :
    (List.zipWith xor a b).foldl xor (xor q r) = xor (a.foldl xor q) (b.foldl xor r) := by
  induction a generalizing b q r with
  | nil => cases b with
    | nil => rfl
    | cons => cases h
  | cons x a ih => cases b with
    | nil => cases h
    | cons y b =>
      simp only [List.zipWith_cons_cons, List.foldl_cons]
      rw [← ih (Nat.succ.inj h), Bool.xor_assoc, Bool.xor_assoc, Bool.xor_left_comm r]

/-! ### The parity of a byte list -/

theorem sum_popcount8 (l : List Byte) : (l.map popcount8).sum = (serialize l).count true :=
  List.count_flatMap.symm

/-- The second line of 42_parity.md R125: the XOR of all bits. -/
theorem parityBit_eq_foldl_xor (l : List Byte) : parityBit l = (serialize l).foldl xor false := by
  rw [foldl_xor_eq, Bool.false_xor, parityBit, sum_popcount8]

theorem zext8_bne (a b : Bit) : zext8 (a != b) = zext8 a ^^^ zext8 b := by cases a <;> cases b <;> rfl

theorem parity_append (l m : List Byte) : parity (l ++ m) = parity l ^^^ parity m := by
  rw [parity, parityBit_append, zext8_bne]; rfl

theorem parity_perm {l m : List Byte} (h : l.Perm m) : parity l = parity m := by
  rw [parity_eq, parity_eq, (h.map popcount8).sum_eq]

/-- The parity byte evens out the bytes before it (42_parity.md R128). -/
theorem parityBit_append_parity (l : List Byte) : parityBit (l ++ [parity l]) = false := by
  rw [parityBit_append, parity, parityBit_zext8, bne_self_eq_false]

/-! ### The checker -/

/-- Two or more bytes whose last is not the parity byte of the others are damaged (42_parity.md R129). -/
theorem classify_of_parity_ne {m : List Byte} {r : Byte} (hm : m ≠ []) (h : parity m ≠ r) (rest : List Byte)
    (log : List Event) : classify (m ++ [r]) rest log = ⟨rest, .noFrame, log ++ [.damaged (m ++ [r])]⟩ := by
  obtain ⟨d, q, rfl⟩ := (List.eq_nil_or_concat' m).resolve_left hm
  rw [List.append_assoc, List.singleton_append, classify_data, if_neg h]

/-- Contents of equal length that both carry their parity byte differ in an even number of bits (42_parity.md R130). -/
theorem count_diff_mod_two_ne_one {l m : List Byte} (hlen : l.length = m.length) :
    (List.zipWith xor (serialize (l ++ [parity l])) (serialize (m ++ [parity m]))).count true % 2 ≠ 1 := by
  have hxor := foldl_xor_zipWith (a := serialize (l ++ [parity l])) (b := serialize (m ++ [parity m]))
    (by simp [hlen]) false false
  rw [← parityBit_eq_foldl_xor, ← parityBit_eq_foldl_xor, parityBit_append_parity, parityBit_append_parity,
    foldl_xor_eq] at hxor
  simpa using hxor

/-- Settles O46: the arithmetic and the XOR form, additivity and order-blindness by the lemmas above. -/
theorem parityIsTheXorOfAllBits : Obligations.ParityIsTheXorOfAllBits :=
  ⟨parity_eq, fun l => congrArg zext8 (parityBit_eq_foldl_xor l), parity_append, fun _ _ => parity_perm,
    rfl, rfl, rfl, rfl, rfl⟩

/-- Settles O47: the parity byte evens out the content, whatever that is. -/
theorem builtFramesHaveEvenParity : Obligations.BuiltFramesHaveEvenParity :=
  fun d q => congrArg zext8 (parityBit_append_parity (d ++ [zext8 q]))

/-- Settles O48: were the received parity byte right too, the two contents would differ in an even number of bits. -/
theorem oddFlipsAreDetected : Obligations.OddFlipsAreDetected := by
  rintro l m p r hl hlen rfl hodd rest log
  have hm : m ≠ [] := List.ne_nil_of_length_pos (hlen ▸ List.length_pos_iff.2 hl)
  refine classify_of_parity_ne hm ?_ rest log
  rintro rfl
  exact count_diff_mod_two_ne_one hlen hodd

end Sys2Proof.Machine
end

/-! ## The stuffer: the deframer's walk takes every stuffed sequence back -/

section

namespace Sys2Proof.Machine

/-- The walk over a stuffed sequence, up to its stop tag, extracts the sequence itself (43_stuff_createframe.md R136). -/
theorem walk_stuffAll_stop (l : List Byte) :
    walk [] [] [] (stuffAll l ++ [Config.stopTag]) = .closed l [] [] := by
  rw [walk_stuffAll, walk_stop, List.nil_append]

theorem stuffAll_inj {l m : List Byte} (h : stuffAll l = stuffAll m) : l = m := by
  have hclosed : WalkEnd.closed l [] [] = WalkEnd.closed m [] [] := by
    rw [← walk_stuffAll_stop l, h, walk_stuffAll_stop m]
  injection hclosed

/-- Settles O44: the deframer's walk undoes the stuffing, and each tag costs one byte (`length_stuffAll`). -/
theorem stuffingIsInjective : Obligations.StuffingIsInjective :=
  ⟨fun _ _ => stuffAll_inj, length_stuffAll⟩

end Sys2Proof.Machine
end

/-! ## `processFrame` as a whole: the round trip, the operation, and the stable wait -/

section

namespace Sys2Proof.Machine

/-- Settles O43: a built frame is a stuffed sequence between its tags, whose last two bytes are the sequence byte and the
matching parity byte. -/
theorem framingRoundTrip : Obligations.FramingRoundTrip := by
  refine ⟨fun g d t q hg => ?_, processFrame_ackFrame []⟩
  rw [createFrame_eq, processFrame_stuffed g _ t hg, classify_data]
  exact if_pos rfl

/-- Settles O28: the operation as it is defined; it only logs and returns. -/
theorem processFrameReturnsAndLogs : Obligations.ProcessFrameReturnsAndLogs := fun _ _ _ => rfl

/-- The bytes `t` after a start tag hold neither a stop tag nor a start tag unescaped: the walk reads through them, whatever
follows, and extracts `ex`. -/
def ReadsThrough (t ex : List Byte) : Prop :=
  ∀ (log : List Event) (r : List Byte),
    walk [Config.startTag] [] log (t ++ r) = walk (Config.startTag :: t) ex log r

section
variable {t ex : List Byte}

theorem ReadsThrough.nil : ReadsThrough [] [] := fun _ _ => rfl

theorem ReadsThrough.escaped (h : ReadsThrough t ex) (c : Byte) :
    ReadsThrough (t ++ [Config.escTag, c]) (ex ++ [c]) := fun log r => by
  rw [List.append_assoc, h]
  exact walk_esc _ _ _ _ _

theorem ReadsThrough.literal (h : ReadsThrough t ex) {b : Byte} (hb : isTag b = false) :
    ReadsThrough (t ++ [b]) (ex ++ [b]) := fun log r => by
  rw [List.append_assoc, h]
  exact walk_literal _ _ _ _ hb

/-- A walk that has run out has kept the bytes from a start tag on, and walking over these again runs out again, at their
end and without a discard (44_destuff_processframe.md R164). -/
theorem walk_ranOut_again {r kept : List Byte} {log log' : List Event} (ht : ReadsThrough t ex)
    (hw : walk (Config.startTag :: t) ex log r = .ranOut kept log') :
    ∃ r', kept = Config.startTag :: r' ∧ walk [Config.startTag] [] [] r' = .ranOut kept [] := by
  generalize htaken : Config.startTag :: t = taken at hw
  induction taken, ex, log, r using walk.induct generalizing t with
  | case1 taken ex log =>
    subst htaken
    cases hw
    exact ⟨t, rfl, by simpa using ht [] []⟩
  | case2 taken ex log b hb =>
    subst htaken
    obtain rfl := classOf_eq_esc hb
    cases hw
    exact ⟨t ++ [Config.escTag], rfl, ht [] _⟩
  | case3 taken ex log b hb c r ih =>
    subst htaken
    obtain rfl := classOf_eq_esc hb
    exact ih (ht.escaped c) rfl hw
  | case4 taken ex log b r hb =>
    obtain rfl := classOf_eq_stop hb
    cases hw
  | case5 taken ex log b r hb ih =>
    obtain rfl := classOf_eq_start hb
    exact ih .nil rfl hw
  | case6 taken ex log b r hb ih =>
    subst htaken
    have htag := isTag_of_classOf_literal hb
    rw [walk_literal _ _ _ _ htag] at hw
    exact ih (ht.literal htag) rfl hw

end

/-- A frame that is dropped is logged as empty or as damaged (44_destuff_processframe.md R159, R161). -/
theorem classify_noFrame_logs {ex rest : List Byte} {log : List Event} (h : (classify ex rest log).res = .noFrame) :
    .emptyFrame ∈ (classify ex rest log).log ∨ .damaged ex ∈ (classify ex rest log).log := by
  unfold classify at h ⊢
  split at h
  · next hnil => simp [hnil]
  · next hnil =>
    split at h
    · cases h
    · next hone =>
      split at h
      · next hparity => exact .inr (by rw [if_neg hnil, if_neg hone, if_pos hparity]; simp)
      · cases h

/-- Settles O50: a call that dropped no frame found no start tag, or its walk ran out, and runs out again. -/
theorem processFrameKeepsASuffixAndWaitsStably : Obligations.ProcessFrameKeepsASuffixAndWaitsStably := by
  intro rb
  refine ⟨processFrame_rest_suffix rb, fun f => processFrame_frame_ne_nil, fun hres hempty hdamaged => ?_⟩
  rcases processFrame_cases rb with ⟨-, hp⟩ | ⟨g, r, -, ⟨kept, log, hw, hp⟩ | ⟨ex, rest, log, -, hp⟩⟩ <;>
    rw [hp] at hres hempty hdamaged ⊢
  · exact processFrame_garbage [] (by simp)
  · obtain ⟨r', rfl, hw'⟩ := walk_ranOut_again .nil hw
    have hp' := processFrame_start [] r' (by simp)
    rw [discarded_nil, hw'] at hp'
    exact hp'
  · exact absurd (classify_noFrame_logs hres) (not_or.2 ⟨hempty, hdamaged ex⟩)

end Sys2Proof.Machine
end

/-! ## The deframer's byte codes

One equation per byte code, and what the loop does next, in terms of the bytes that a `processFrame` call in progress has
passed and those it has still to read (log 8). -/

section

namespace Sys2Proof.Machine

section
variable {s : State} {e : EndpointId} {x : Endpoint} {m : ScanMode} {b : Byte} {before rest : List Byte}

/-! ### One equation per code -/

/-- The `processFrame` call of endpoint `x` gone on by `n` bytes, to the destuffer's state `m` with the bytes `ex` extracted. -/
def Endpoint.passing (x : Endpoint) (n : Nat) (m : ScanMode) (ex : List Byte) : Endpoint :=
  { x with scan := ⟨m, x.scan.pos + n, ex⟩ }

/-- The taking of a content byte, in these terms (44_destuff_processframe.md R154, R157). -/
theorem takeContent_eq_continueScan (n : Nat) :
    takeContent n b x = continueScan (x.passing n .inFrame (x.scan.extracted ++ [b])) := takeContent_eq n b x

theorem exec_startHunt (hs : s.ep e = x) (h : x.scanSees .hunt Config.startTag) :
    exec (.startHunt e) s = .next (s.setEp e (restartScan x)) := by
  subst hs
  exact show execStartHunt e s = _ from perform_enabled h rfl

theorem exec_garbageHunt (hs : s.ep e = x) (h : x.scanSees .hunt b) (hb : b ≠ Config.startTag) :
    exec (.garbageHunt e b) s = .next (s.setEp e (continueScan (x.passing 1 .hunt x.scan.extracted))) := by
  subst hs
  have ⟨_, hmode, _⟩ := h
  rw [← hmode]
  exact show execGarbageHunt e b s = _ from perform_enabled ⟨h, hb⟩ rfl

theorem exec_start (hs : s.ep e = x) (h : x.scanSees .inFrame Config.startTag) :
    exec (.start e) s = .next (s.setEp e (restartScan x)) := by
  subst hs
  exact show execStart e s = _ from perform_enabled h rfl

theorem exec_stop (hs : s.ep e = x) (h : x.scanSees .inFrame Config.stopTag) :
    exec (.stop e) s = .next (s.setEp e
      (handleParsed (classify x.scan.extracted (x.receiveBuffer.drop (x.scan.pos + 1)) []) x)) := by
  subst hs
  exact show execStop e s = _ from perform_enabled h rfl

theorem exec_esc (hs : s.ep e = x) (h : x.scanSees .inFrame Config.escTag) :
    exec (.esc e) s = .next (s.setEp e (continueScan (x.passing 1 .escaped x.scan.extracted))) := by
  subst hs
  exact show execEsc e s = _ from perform_enabled h rfl

theorem exec_literal (hs : s.ep e = x) (h : x.scanSees .inFrame b) (hb : isTag b = false) :
    exec (.literal e b) s = .next (s.setEp e (takeContent 1 b x)) := by
  subst hs
  exact show execLiteral e b s = _ from perform_enabled ⟨h, hb⟩ rfl

theorem exec_literalEscaped (hs : s.ep e = x) (h : x.scanSees .escaped b) :
    exec (.literalEscaped e b) s = .next (s.setEp e (takeContent 1 b x)) := by
  subst hs
  exact show execLiteralEscaped e b s = _ from perform_enabled h rfl

/-- `ESC_PAIR` takes its byte as `LITERAL.escaped` does behind an `ESC`. -/
theorem exec_escPair (hs : s.ep e = x) (h : x.scanSees .inFrame Config.escTag)
    (hb : x.receiveBuffer[x.scan.pos + 1]? = some b) :
    exec (.escPair e b) s = .next (s.setEp e (takeContent 1 b (x.passing 1 .escaped x.scan.extracted))) := by
  subst hs
  exact show execEscPair e b s = _ from perform_enabled ⟨h, hb⟩ rfl

/-! ### A call in progress -/

/-- Endpoint `x` is in a `processFrame` call whose destuffer is in state `m`; of the receive buffer the call has passed the
bytes `before` and has still to read `rest` (44_destuff_processframe.md R150, R166). -/
structure Endpoint.Reading (x : Endpoint) (m : ScanMode) (before rest : List Byte) : Prop where
  enabled : x.enabledIn .process
  mode : x.scan.mode = m
  buffer : x.receiveBuffer = before ++ rest
  pos : x.scan.pos = before.length

theorem Endpoint.Reading.sees (h : x.Reading m before (b :: rest)) : x.scanSees m b :=
  ⟨h.enabled, h.mode, by simp [h.buffer, h.pos]⟩

theorem Endpoint.Reading.pass (h : x.Reading m before (b :: rest)) (m' : ScanMode) (ex : List Byte) :
    (x.passing 1 m' ex).Reading m' (before ++ [b]) rest where
  enabled := h.enabled
  mode := rfl
  buffer := by simp [Endpoint.passing, h.buffer]
  pos := by simp [Endpoint.passing, h.pos]

theorem Endpoint.Reading.drop_pos_add_one (h : x.Reading m before (b :: rest)) :
    x.receiveBuffer.drop (x.scan.pos + 1) = rest := by
  simp [h.buffer, h.pos]

/-! ### The top of the loop -/

theorem continueScan_of_ne_nil (h : x.Reading m before rest) (hrest : rest ≠ []) : continueScan x = x := by
  have hlt : x.scan.pos < x.receiveBuffer.length := by
    simpa [h.buffer, h.pos, List.length_pos_iff] using hrest
  exact if_pos hlt

/-- The bytes have run out without a start tag (44_destuff_processframe.md R151). -/
theorem continueScan_hunt_nil (h : x.Reading .hunt before []) :
    continueScan x = handleParsed ⟨[], .noFrame, discarded before⟩ x := by
  have hend : ¬ x.scan.pos < x.receiveBuffer.length := by simp [h.buffer, h.pos]
  rw [continueScan, if_neg hend, h.mode, h.buffer, List.append_nil]

/-- The bytes have run out inside a frame (44_destuff_processframe.md R152, R153). -/
theorem continueScan_inside_nil (h : x.Reading m before []) (hm : m ≠ .hunt) :
    continueScan x = handleParsed ⟨before, .noFrame, []⟩ x := by
  have hend : ¬ x.scan.pos < x.receiveBuffer.length := by simp [h.buffer, h.pos]
  cases m with
  | hunt => exact absurd rfl hm
  | inFrame | escaped => rw [continueScan, if_neg hend, h.mode, h.buffer, List.append_nil]

/-- Inside a frame the call goes on with the bytes that are left, or waits for more and keeps the buffer. -/
theorem continueScan_inside (h : x.Reading m before rest) (hm : m ≠ .hunt) :
    continueScan x = { x with
      scan := if rest = [] then Scan.idle else x.scan
      phase := if rest = [] then .timeout else .process } := by
  by_cases hrest : rest = []
  · subst hrest
    rw [continueScan_inside_nil h hm]
    simp [handleParsed, h.buffer]
  · obtain ⟨hphase, -⟩ := h.enabled
    rw [continueScan_of_ne_nil h hrest]
    simp [hrest, ← hphase]

/-! ### The restart at a start tag -/

/-- Endpoint `x` with the extraction begun at a start tag that follows the bytes `before` (44_destuff_processframe.md R151,
R156). -/
def Endpoint.openedAfter (x : Endpoint) (before rest : List Byte) : Endpoint :=
  { x with
    receiveBuffer := Config.startTag :: rest
    trace := x.trace ++ discarded before
    scan := ⟨.inFrame, 1, []⟩ }

theorem Endpoint.Reading.openedAfter (h : x.Reading m before (Config.startTag :: rest)) :
    (x.openedAfter before rest).Reading .inFrame [Config.startTag] rest := ⟨h.enabled, rfl, rfl, rfl⟩

theorem restartScan_eq_continueScan (h : x.Reading m before (Config.startTag :: rest)) :
    restartScan x = continueScan (x.openedAfter before rest) := by
  rw [restartScan_eq, h.pos, h.buffer, List.drop_left, List.take_left]
  rfl

theorem restartScan_of_reading (h : x.Reading m before (Config.startTag :: rest)) :
    restartScan x = { x with
      receiveBuffer := Config.startTag :: rest
      trace := x.trace ++ discarded before
      scan := if rest = [] then Scan.idle else ⟨.inFrame, 1, []⟩
      phase := if rest = [] then .timeout else .process } := by
  rw [restartScan_eq_continueScan h, continueScan_inside h.openedAfter (by simp)]
  rfl

/-! ### The taking of a content byte -/

theorem takeContent_of_reading {c : Byte} (h : x.Reading m before (c :: rest)) (b : Byte) :
    takeContent 1 b x = { x with
      scan := if rest = [] then Scan.idle else ⟨.inFrame, before.length + 1, x.scan.extracted ++ [b]⟩
      phase := if rest = [] then .timeout else .process } := by
  rw [takeContent_eq_continueScan, continueScan_inside (h.pass .inFrame _) (by simp), ← h.pos]
  rfl

/-! ### The end of the frame -/

theorem exec_stop_of_reading (hs : s.ep e = x) (h : x.Reading .inFrame before (Config.stopTag :: rest)) :
    exec (.stop e) s = .next (s.setEp e (handleParsed (classify x.scan.extracted rest []) x)) := by
  rw [exec_stop hs h.sees, h.drop_pos_add_one]

/-- A frame that the classification hands on is dispatched as by `finishFrameReceive` behind the frame
(45_par_fsm.md R172). -/
theorem exec_stop_of_frame {f : List Byte} (h : (s.ep e).Reading .inFrame before (Config.stopTag :: rest))
    (hf : f ≠ []) (hc : classify (s.ep e).scan.extracted rest [] = ⟨rest, .frame f, []⟩) :
    ∃ t, exec (.stop e) s = .next t ∧ exec (.finishFrameReceive e f)
      (s.setEp e { s.ep e with receiveBuffer := rest, scan := Scan.idle }) = .next t := by
  refine ⟨_, exec_stop_of_reading rfl h, ?_⟩
  obtain ⟨hphase, hfault⟩ := h.enabled
  rw [exec_finishFrameReceive (by simp [hphase, hfault]) hf, hc]
  simp [handleParsed]

end

/-! ### The codes as the rules state them -/

/-- Settles O35: the restart behind the garbage, the byte passed, and the hunt at its end. -/
theorem huntingDiscardsGarbage : Obligations.HuntingDiscardsGarbage := by
  intro s e hphase hfault hmode
  refine ⟨fun garbage rest hbuf hpos => ?_, fun garbage rest b hbuf hpos hb hrest => ?_,
    fun garbage b hbuf hpos hb => ?_⟩
  · have h : (s.ep e).Reading .hunt garbage (Config.startTag :: rest) := ⟨⟨hphase, hfault⟩, hmode, hbuf, hpos⟩
    rw [exec_startHunt rfl h.sees, restartScan_of_reading h]
    rfl
  · have h : (s.ep e).Reading .hunt garbage (b :: rest) := ⟨⟨hphase, hfault⟩, hmode, hbuf, hpos⟩
    rw [exec_garbageHunt rfl h.sees hb, continueScan_of_ne_nil (h.pass .hunt _) hrest, ← hpos]
    rfl
  · have h : (s.ep e).Reading .hunt garbage [b] := ⟨⟨hphase, hfault⟩, hmode, hbuf, hpos⟩
    rw [exec_garbageHunt rfl h.sees hb, continueScan_hunt_nil (h.pass .hunt _), discarded_of_ne_nil (by simp)]
    rfl

/-- Settles O36: the restart, with something to discard. -/
theorem startInsideAFrameRestarts : Obligations.StartInsideAFrameRestarts := by
  intro s e before rest hphase hfault hmode hbuf hpos hbefore
  have h : (s.ep e).Reading .inFrame before (Config.startTag :: rest) := ⟨⟨hphase, hfault⟩, hmode, hbuf, hpos⟩
  rw [exec_start rfl h.sees, restartScan_of_reading h, discarded_of_ne_nil hbefore]
  rfl

/-- Settles O37: `ESC` with and without a next byte, and the two codes that take an escaped byte. -/
theorem escapedBytesAreTakenLiterally : Obligations.EscapedBytesAreTakenLiterally := by
  intro s e hphase hfault
  refine ⟨fun before rest hmode hbuf hpos => ?_, fun before rest b hmode hbuf hpos => ?_⟩
  · have h : (s.ep e).Reading .inFrame before (Config.escTag :: rest) := ⟨⟨hphase, hfault⟩, hmode, hbuf, hpos⟩
    have hnext := h.pass .escaped (s.ep e).scan.extracted
    refine ⟨fun hrest => ?_, fun hrest => ?_, fun b rest' hrest => ?_⟩
    · rw [exec_esc rfl h.sees, continueScan_of_ne_nil hnext hrest, ← hpos]
      rfl
    · rw [exec_esc rfl h.sees, continueScan_inside hnext (by simp), if_pos hrest, if_pos hrest]
      rfl
    · subst hrest
      have hpair : (s.ep e).receiveBuffer[(s.ep e).scan.pos + 1]? = some b := by simp [hbuf, hpos]
      rw [exec_escPair rfl h.sees hpair, takeContent_of_reading hnext, List.length_append]
      rfl
  · have h : (s.ep e).Reading .escaped before (b :: rest) := ⟨⟨hphase, hfault⟩, hmode, hbuf, hpos⟩
    rw [exec_literalEscaped rfl h.sees, takeContent_of_reading h]

/-- Settles O38: a byte that is no tag is taken. -/
theorem literalBytesAreAppended : Obligations.LiteralBytesAreAppended := by
  intro s e before rest b hphase hfault hmode hbuf hpos hstart hstop hesc
  have h : (s.ep e).Reading .inFrame before (b :: rest) := ⟨⟨hphase, hfault⟩, hmode, hbuf, hpos⟩
  have hb : isTag b = false := by
    rw [← Bool.not_eq_true, isTag_iff]
    exact not_or.2 ⟨hstart, not_or.2 ⟨hstop, hesc⟩⟩
  rw [exec_literal rfl h.sees hb, takeContent_of_reading h]

/-- Settles O39: one clause per case of the classification. -/
theorem stopEndsTheFrameAndClassifies : Obligations.StopEndsTheFrameAndClassifies := by
  intro s e before rest hphase hfault hmode hbuf hpos
  have h : (s.ep e).Reading .inFrame before (Config.stopTag :: rest) := ⟨⟨hphase, hfault⟩, hmode, hbuf, hpos⟩
  refine ⟨fun hex => ?_, fun b hex => ?_, fun d q p hex hparity => ?_, fun d q p hex hparity => ?_⟩
  · rw [exec_stop_of_reading rfl h, hex]
    rfl
  · exact exec_stop_of_frame h (by simp) (by rw [hex, classify_one])
  · rw [exec_stop_of_reading rfl h, hex, classify_data, if_neg hparity]
    rfl
  · exact exec_stop_of_frame h (by simp) (by rw [hex, classify_data, if_pos hparity])

end Sys2Proof.Machine
end

/-! ## The byte codes refine `PROCESS`

At the top of its loop, the call in progress has a result that it is going to return: the walk's over the bytes still to
read. Each byte code brings the call to a loop top with the same result, so running them one after the other ends in the
state that `PROCESS` gives. -/

section

namespace Sys2Proof.Machine

/-! ### The result of a walk -/

/-- The result of the `processFrame` call whose step 2 ended in this way (44_destuff_processframe.md R150). -/
def WalkEnd.parsed : WalkEnd → Parsed
  | .ranOut kept log => ⟨kept, .noFrame, log⟩
  | .closed extracted rest log => classify extracted rest log

theorem processFrame_eq_parsed {g : List Byte} (h : Config.startTag ∉ g) (r : List Byte) :
    processFrame (g ++ Config.startTag :: r) = (walk [Config.startTag] [] (discarded g) r).parsed := by
  rw [processFrame_start g r h]
  cases walk [Config.startTag] [] (discarded g) r <;> rfl

/-- The result with the events `log` logged before its own. -/
def Parsed.after (log : List Event) (p : Parsed) : Parsed := { p with log := log ++ p.log }

theorem classify_after (ex rest : List Byte) (log : List Event) :
    classify ex rest log = (classify ex rest []).after log := by
  unfold classify
  split
  · rfl
  · split
    · simp [Parsed.after]
    · split
      · rfl
      · simp [Parsed.after]

/-- The events logged before a walk only precede its own. -/
theorem walk_parsed_after (taken ex r : List Byte) (log log' : List Event) :
    (walk taken ex (log ++ log') r).parsed = (walk taken ex log' r).parsed.after log := by
  induction taken, ex, log', r using walk.induct with
  | case1 taken ex log' => rfl
  | case2 taken ex log' b hb =>
    obtain rfl := classOf_eq_esc hb
    rfl
  | case3 taken ex log' b hb c r ih =>
    obtain rfl := classOf_eq_esc hb
    exact ih
  | case4 taken ex log' b r hb =>
    obtain rfl := classOf_eq_stop hb
    rw [walk_stop, walk_stop, WalkEnd.parsed, WalkEnd.parsed, classify_after, classify_after ex r log']
    simp [Parsed.after]
  | case5 taken ex log' b r hb ih =>
    obtain rfl := classOf_eq_start hb
    rw [walk_start, walk_start, List.append_assoc]
    exact ih
  | case6 taken ex log' b r hb ih =>
    have htag := isTag_of_classOf_literal hb
    rw [walk_literal _ _ _ _ htag, walk_literal _ _ _ _ htag]
    exact ih

/-! ### The handling of a result -/

section
variable {x : Endpoint} {p : Parsed}

/-- The call's variables are overwritten when its result is handled. -/
theorem handleParsed_passing (n : Nat) (m : ScanMode) (ex : List Byte) :
    handleParsed p (x.passing n m ex) = handleParsed p x := rfl

/-- What a restart has discarded and logged is handled as part of the result. -/
theorem handleParsed_openedAfter (before rest : List Byte) :
    handleParsed p (x.openedAfter before rest) = handleParsed (p.after (discarded before)) x := by
  simp [handleParsed, Parsed.after, Endpoint.openedAfter]

/-- Handling a result ends the call (40_event_loop.md R96). -/
theorem handleParsed_phase_ne_process : (handleParsed p x).phase ≠ .process := by
  rcases handleParsed_cases p x with ⟨-, h⟩ | ⟨f, -, h⟩ <;> rw [h]
  · simp
  · rcases dispatch_cases f { x with receiveBuffer := p.rest, trace := x.trace ++ p.log, scan := Scan.idle } with
      ⟨-, hd⟩ | ⟨-, hd⟩ <;> simp [hd, observeAck]

end

/-! ### Runs of the byte codes -/

/-- Endpoint `e`'s deframer comes from `s` to `t` in at most `k` byte codes. -/
def Deframes (e : EndpointId) (k : Nat) (s t : State) : Prop := ∃ n ≤ k, deframeBytes e n s = .next t

section
variable {s t : State} {e : EndpointId} {x y : Endpoint} {m : ScanMode} {b : Byte} {i : Instr} {k : Nat}
  {before taken rest r : List Byte}

theorem Deframes.refl : Deframes e k s s := ⟨0, Nat.zero_le k, rfl⟩

/-- One more byte code in front: the one that the decoder reads at the scan position. -/
theorem Deframes.step (h : x.Reading m before (b :: rest)) (hi : decode (scanPosition e m) [b] = .ok i)
    (hexec : exec i (s.setEp e x) = .next ((s.setEp e x).setEp e y)) (ht : Deframes e k (s.setEp e y) t) :
    Deframes e (k + 1) (s.setEp e x) t := by
  obtain ⟨n, hn, ht⟩ := ht
  obtain ⟨⟨hphase, -⟩, hmode, hbyte⟩ := h.sees
  have hcode : scannedCode e x = some i := by simp [scannedCode, hbyte, hmode, hi, Except.toOption]
  rw [setEp_setEp] at hexec
  exact ⟨n + 1, Nat.succ_le_succ hn, by simp [deframeBytes, hphase, hcode, hexec, ht]⟩

/-- From the top of the loop inside a frame, the byte codes end in what the rest of the walk gives (R152 to R157). -/
theorem deframes_walk (ex : List Byte) (h : x.Reading .inFrame taken r) (hex : x.scan.extracted = ex) :
    Deframes e r.length (s.setEp e (continueScan x))
      (s.setEp e (handleParsed (walk taken ex [] r).parsed x)) := by
  -- The recursion of `walk` carries its log; the claim is the same for every log.
  have log : List Event := []
  induction taken, ex, log, r using walk.induct generalizing x with
  | case1 taken ex log =>
    rw [continueScan_inside_nil h (by simp)]
    exact .refl
  | case2 taken ex log b hb =>
    obtain rfl := classOf_eq_esc hb
    have hnext := h.pass .escaped x.scan.extracted
    rw [continueScan_of_ne_nil h (by simp)]
    refine .step h rfl (exec_esc (ep_setEp s e x) h.sees) ?_
    rw [continueScan_inside_nil hnext (by simp), handleParsed_passing]
    exact .refl
  | case3 taken ex log b hb c r ih =>
    obtain rfl := classOf_eq_esc hb
    subst hex
    have hnext := h.pass .escaped x.scan.extracted
    have hcontent := hnext.pass .inFrame (x.scan.extracted ++ [c])
    rw [List.append_assoc] at hcontent
    rw [continueScan_of_ne_nil h (by simp)]
    refine .step h rfl (exec_esc (ep_setEp s e x) h.sees) ?_
    rw [continueScan_of_ne_nil hnext (by simp)]
    exact .step hnext rfl (exec_literalEscaped (ep_setEp s e _) hnext.sees) (ih hcontent rfl)
  | case4 taken ex log b r hb =>
    obtain rfl := classOf_eq_stop hb
    subst hex
    rw [continueScan_of_ne_nil h (by simp)]
    exact .step h rfl (exec_stop_of_reading (ep_setEp s e x) h) .refl
  | case5 taken ex log b r hb ih =>
    obtain rfl := classOf_eq_start hb
    have hopen := ih h.openedAfter rfl
    rw [handleParsed_openedAfter, ← walk_parsed_after, List.append_nil] at hopen
    rw [continueScan_of_ne_nil h (by simp)]
    refine .step h rfl (exec_start (ep_setEp s e x) h.sees) ?_
    rw [restartScan_eq_continueScan h]
    exact hopen
  | case6 taken ex log b r hb ih =>
    have htag := isTag_of_classOf_literal hb
    subst hex
    rw [continueScan_of_ne_nil h (by simp), walk_literal _ _ _ _ htag]
    exact .step h (congrArg Except.ok (decodeUnescaped_literal e htag))
      (exec_literal (ep_setEp s e x) h.sees htag) (ih (h.pass .inFrame _) rfl)

/-- From the top of the loop while hunting, the byte codes end in what `processFrame` gives on the whole buffer (R151). -/
theorem deframes_hunt (h : x.Reading .hunt before r) (hbefore : Config.startTag ∉ before) :
    Deframes e r.length (s.setEp e (continueScan x))
      (s.setEp e (handleParsed (processFrame (before ++ r)) x)) := by
  induction r generalizing x before with
  | nil =>
    rw [continueScan_hunt_nil h, List.append_nil, processFrame_garbage before hbefore]
    exact .refl
  | cons b r ih =>
    rw [continueScan_of_ne_nil h (by simp)]
    by_cases hb : b = Config.startTag
    · subst hb
      have hwalk := deframes_walk (s := s) (e := e) [] h.openedAfter rfl
      rw [handleParsed_openedAfter, ← walk_parsed_after, List.append_nil, ← processFrame_eq_parsed hbefore] at hwalk
      refine .step h rfl (exec_startHunt (ep_setEp s e x) h.sees) ?_
      rw [restartScan_eq_continueScan h]
      exact hwalk
    · have hrun := ih (h.pass .hunt x.scan.extracted) (by simp [hbefore, Ne.symm hb])
      have hdecode : decode (scanPosition e .hunt) [b] = .ok (.garbageHunt e b) := by
        simp [decode, scanPosition, decodeHunting, hb]
      rw [List.append_assoc, handleParsed_passing] at hrun
      exact .step h hdecode (exec_garbageHunt (ep_setEp s e x) h.sees hb) hrun

end

/-- Settles O40: an idle scan is a hunt that has passed no byte yet. -/
theorem byteCodesRefineProcess : Obligations.ByteCodesRefineProcess := by
  intro s e hphase hfault hscan hbuf
  have h : (s.ep e).Reading .hunt [] (s.ep e).receiveBuffer :=
    ⟨⟨hphase, hfault⟩, by rw [hscan]; rfl, rfl, by rw [hscan]; rfl⟩
  have hrun := deframes_hunt (s := s) (e := e) h (by simp)
  rw [continueScan_of_ne_nil h hbuf, setEp_ep, List.nil_append] at hrun
  obtain ⟨n, hn, ht⟩ := hrun
  refine ⟨n, _, hn, ht, ?_, exec_process_of_ne_nil ⟨hphase, hfault⟩ hbuf⟩
  rw [ep_setEp]
  exact handleParsed_phase_ne_process

end Sys2Proof.Machine
end

/-! ## The PAR machine

One equation per procedure where it is enabled (45_par_fsm.md R171 to R178), and the exchange of R182: a frame received,
acknowledged to the last bit and handed to the delivery half, as one equation that a second reception uses again. -/

section

namespace Sys2Proof.Machine

section
variable {s : State} {e : EndpointId}

/-! ### The procedures -/

theorem exec_finishFrameSend {f : List Byte} (hx : (s.ep e).canArm f) :
    exec (.finishFrameSend e f) s = .next (s.setEp e (armSender s.now f (s.ep e))) :=
  show execFinishFrameSend e f s = _ from perform_enabled hx rfl

theorem exec_ackBranch (hx : (s.ep e).canDispatch) :
    exec (.ackBranch e) s = .next (s.setEp e (observeAck (s.ep e))) :=
  show execAckBranch e s = _ from perform_enabled hx rfl

/-- The code `ACKTAG` is the call of `ackBranch` (45_par_fsm.md R172). -/
theorem exec_ackTagByte : exec (.ackTagByte e) s = exec (.ackBranch e) s := rfl

theorem exec_dataBranch {f : List Byte} (hx : (s.ep e).canLoadTx) (hf : f ≠ []) :
    exec (.dataBranch e f) s = .next (s.setEp e (acknowledge f (s.ep e))) :=
  show execDataBranch e f s = _ from perform_enabled hx (if_neg hf)

theorem exec_deliverHalf {f : List Byte} {y : Endpoint} (hx : (s.ep e).canDeliver f)
    (hy : deliverSequence s.cfg f (s.ep e) = .done y) : exec (.deliverHalf e f) s = .next (s.setEp e y) :=
  show execDeliverHalf e f s = _ from perform_enabled hx hy

/-! ### The timer -/

/-- An outstanding frame without a running timer is fatal (45_par_fsm.md R178). -/
theorem exec_chkTimeout_of_timerNotStarted (hx : (s.ep e).enabledIn .timeout) (hw : (s.ep e).awaitingAck = true)
    (ht : (s.ep e).timerStart = 0) :
    exec (.chkTimeout e) s = .next (s.setEp e { s.ep e with fault := some .timerNotStarted }) := by
  show execChkTimeout e s = _
  rw [← raiseFatal_eq]
  exact perform_raised (by simp only [if_pos hx]; simp [hw, ht])

/-- The timer comparison with unbounded time: strictly more than 100 ms (45_par_fsm.md R178 (a)). -/
theorem expired_of_unbounded {cfg : Params} (hwidth : cfg.timeWidth = none) (now start : Nat) :
    expired cfg now start = decide (100 * cfg.ticksPerMs < now - start) := by
  simp only [expired, elapsed, hwidth, Config.timeoutTicks, Config.timeoutMs]

/-! ### A frame received, acknowledged and handed to the delivery half -/

/-- The conditions under which endpoint `e` can take a frame and send its ACK to the last bit: its encoder may be loaded,
every bit it sends reaches its peer, and its `appBuffer` is unbounded. -/
structure State.CanReceive (s : State) (e : EndpointId) : Prop where
  loadable : (s.ep e).canLoadTx
  closed : s.cfg.wiring = .closed
  registered : ∀ f : EndpointId, f ∈ s.registered
  phyq : s.cfg.phyqDepth = none
  appbuf : s.cfg.appbufDepth = none

/-- The receiver's record once the last bit of the ACK has gone, before the delivery. -/
def Endpoint.ackGone (q : Bit) (d : List Byte) (y : Endpoint) : Endpoint :=
  { acknowledge (zext8 q :: d) y with txShift := [] }.logs [.frameSent .ack ackFrame]

/-- The receiver's record after the whole reception of a frame with sequence bit `q` and data `d`. -/
def Endpoint.received (q : Bit) (d : List Byte) (y : Endpoint) : Endpoint :=
  clearTx .timeout ((y.ackGone q d).delivered q d)

/-- In sequence, the data are delivered and `seqRecv` flips (45_par_fsm.md R176). -/
theorem received_of_inSequence {q : Bit} {d : List Byte} {y : Endpoint} (hq : q = y.seqRecv) :
    (y.received q d).appBuffer = y.appBuffer ++ d ∧ (y.received q d).seqRecv = flip y.seqRecv ∧
      (y.received q d).trace = y.trace ++ [.frameSent .ack ackFrame, .deliver d] := by
  simp [Endpoint.received, Endpoint.ackGone, Endpoint.delivered, hq]

/-- Out of sequence, the frame is acknowledged and nothing is delivered (45_par_fsm.md R176). -/
theorem received_of_duplicate {q : Bit} {d : List Byte} {y : Endpoint} (hq : q ≠ y.seqRecv) :
    (y.received q d).appBuffer = y.appBuffer ∧ (y.received q d).seqRecv = y.seqRecv ∧
      (y.received q d).trace = y.trace ++ [.frameSent .ack ackFrame, .duplicate (zext8 q)] := by
  simp [Endpoint.received, Endpoint.ackGone, Endpoint.delivered, hq]

/-- A reception ends in `P_TIMEOUT`, where the encoder may be loaded again. -/
theorem received_canLoadTx {q : Bit} {d : List Byte} {y : Endpoint} (h : y.canLoadTx) :
    (y.received q d).canLoadTx := by
  obtain ⟨-, hfault, hscan⟩ := h
  by_cases hq : q = y.seqRecv <;> simp [Endpoint.received, Endpoint.ackGone, Endpoint.delivered, hq, hfault, hscan]

/-- After a reception the next frame can be received. -/
theorem State.CanReceive.after (h : s.CanReceive e) (q : Bit) (d : List Byte) (bits : List Bit) :
    ((s.setEp e ((s.ep e).received q d)).arriveAt (peer e) bits).CanReceive e where
  loadable := by simpa using received_canLoadTx (q := q) (d := d) h.loadable
  closed := by simpa [State.arriveAt] using h.closed
  registered := by simpa [State.arriveAt] using h.registered
  phyq := by simpa [State.arriveAt] using h.phyq
  appbuf := by simpa [State.arriveAt] using h.appbuf

/-- Once the ACK is loaded, every bit of it reaches the peer. -/
theorem State.CanReceive.wireOpen (h : s.CanReceive e) (f : List Byte) :
    (s.setEp e (acknowledge f (s.ep e))).WireOpen e where
  sending := by simpa using h.loadable.2.1
  closed := by simpa using h.closed
  registered := by simpa using h.registered
  unbounded := by simpa using h.phyq

/-- One reception: `finishFrameReceive` loads the ACK, its 24 bits go to the peer, and `TX_DONE` hands the frame to the
delivery half (45_par_fsm.md R174, R176, 40_event_loop.md R94). -/
theorem runOps_receive (h : s.CanReceive e) (q : Bit) (d : List Byte) {draws : List Bit} (hlen : draws.length = 24) :
    runOps (.finishFrameReceive e (zext8 q :: d) :: (txBits e draws ++ [.txDone e])) s =
      .next ((s.setEp e ((s.ep e).received q d)).arriveAt (peer e)
        (deliveredBits s.cfg.medium (serialize ackFrame) draws)) := by
  have hfault : (s.ep e).fault = none := h.loadable.2.1
  have hload := exec_finishFrameReceive h.loadable (List.cons_ne_nil (zext8 q) d)
  rw [dispatch_of_ne_ack (zext8_cons_ne_ack q d)] at hload
  have hbits := runOps_txBits_of_wireOpen (h.wireOpen (zext8 q :: d)) (bits := serialize ackFrame) (by simp)
    (by simpa [length_serialize, ackFrame] using hlen)
  have hdone := exec_txDone_of_ack (d := d) (q := q) (e := e)
    (s := (s.setEp e (acknowledge (zext8 q :: d) (s.ep e))).sent e []
      (deliveredBits s.cfg.medium (serialize ackFrame) draws))
    (by simpa using hfault) (by simp) (by simpa using h.appbuf)
  rw [setEp_cfg] at hbits
  rw [runOps_cons_of_next hload, runOps_append_of_next hbits, runOps_cons_of_next hdone, runOps]
  simp [State.sent, State.arriveAt, setEp_comm, Endpoint.received, Endpoint.ackGone]

end

/-! ### The statements -/

/-- Settles O33: a reception in sequence flips `seqRecv`, so that the same frame is then out of sequence. -/
theorem secondDeliveryIsAcknowledgedNotDelivered : Obligations.SecondDeliveryIsAcknowledgedNotDelivered := by
  intro s e data draws draws' hload hclosed hreg hphyq happ hlen hlen'
  have h : s.CanReceive e := ⟨hload, hclosed, hreg, hphyq, happ⟩
  have hfirst := runOps_receive h (s.ep e).seqRecv data hlen
  have hrun := (runOps_append_of_next hfirst).trans
    (runOps_receive (h.after (s.ep e).seqRecv data _) (s.ep e).seqRecv data hlen')
  obtain ⟨happ₁, hseq₁, htrace₁⟩ := received_of_inSequence (d := data) (y := s.ep e) rfl
  obtain ⟨happ₂, hseq₂, htrace₂⟩ := received_of_duplicate (q := (s.ep e).seqRecv) (d := data)
    (y := (s.ep e).received (s.ep e).seqRecv data) (by simp [hseq₁, flip])
  simp only [List.cons_append, List.nil_append, List.append_assoc] at hrun ⊢
  refine ⟨_, hrun, ?_⟩
  simp only [ep_arriveAt_peer, ep_setEp]
  exact ⟨happ₂.trans happ₁, hseq₂.trans hseq₁, by rw [htrace₂, htrace₁, List.append_assoc]; rfl⟩

/-- Settles O20: nothing outstanding, no timer, and the two sides of the strict comparison. -/
theorem chkTimeoutRetransmitsWhenExpired : Obligations.ChkTimeoutRetransmitsWhenExpired := by
  intro s e hphase hfault
  have hx : (s.ep e).enabledIn .timeout := ⟨hphase, hfault⟩
  refine ⟨exec_chkTimeout_of_notAwaiting hx, exec_chkTimeout_of_timerNotStarted hx,
    fun hwidth hw ht hle => exec_chkTimeout_of_not_expired hx hw ht ?_,
    fun f hwidth hw ht hf hgt => exec_chkTimeout_of_expired hx hw ht ?_ hf⟩
  · exact (expired_of_unbounded hwidth _ _).trans (decide_eq_false (Nat.not_lt.2 hle))
  · exact (expired_of_unbounded hwidth _ _).trans (decide_eq_true hgt)

/-- Settles O29: both places where `TX_DONE` calls `finishFrameSend`. -/
theorem finishFrameSendStartsTheTimer : Obligations.FinishFrameSendStartsTheTimer := by
  intro s e f hphase hfault hshift hcall
  have sent {c : TxCont} (hcont : (s.ep e).txCont = c) : (s.ep e).hasSent c := ⟨⟨hphase, hfault⟩, hshift, hcont⟩
  rcases hcall with ⟨hcont, hf⟩ | ⟨hcont, hf⟩
  · exact exec_finishFrameSend (.inl ⟨sent hcont, hf⟩)
  · exact exec_finishFrameSend (.inr ⟨sent hcont, hf⟩)

/-- Settles O30: the other two routes are calls of `ackBranch`. -/
theorem anAckIsObservedUnconditionally : Obligations.AnAckIsObservedUnconditionally := by
  intro s e hx
  exact ⟨_, rfl, exec_ackBranch hx, exec_ackTagByte.trans (exec_ackBranch hx),
    exec_finishFrameReceive_ack.trans (exec_ackBranch hx)⟩

/-- Settles O31: `finishFrameReceive` of any other sequence is the call of `dataBranch`. -/
theorem everyOtherSequenceIsAcknowledged : Obligations.EveryOtherSequenceIsAcknowledged := by
  intro s e f hx hf
  exact ⟨_, rfl, exec_dataBranch hx hf,
    fun hack => (exec_finishFrameReceive_of_ne_ack hack).trans (exec_dataBranch hx hf)⟩

/-- Settles O32: the comparison of the whole first byte, both ways. -/
theorem deliverHalfDeliversInSequence : Obligations.DeliverHalfDeliversInSequence := by
  intro s e r data hphase hfault hshift hcont hrx
  have hx : (s.ep e).canDeliver (r :: data) := ⟨⟨⟨hphase, hfault⟩, hshift, hcont⟩, hrx.symm⟩
  refine ⟨fun hr hroom => exec_deliverHalf hx (deliverSequence_of_inSequence hr ?_),
    fun hr => exec_deliverHalf hx (deliverSequence_of_duplicate hr)⟩
  exact (fits_iff _ _ _).2 (or_iff_not_imp_left.2 hroom)

end Sys2Proof.Machine
end

/-! ## The medium, and the fatal errors of the queues

One equation per case of `transmit` (60_exceptions.md R215) and per overflowing push (R209), from which the statements
about them are assembled. -/

section

namespace Sys2Proof.Machine

/-! ### Room for one bit, and no room -/

theorem fits_singleton_iff {α : Type} {depth : Option Nat} {q : List α} {a : α} :
    fits depth q [a] = true ↔ ∀ n, depth = some n → q.length < n := by
  simp [fits_iff]

theorem fits_eq_false {α : Type} {n : Nat} {depth : Option Nat} {q new : List α} (hdepth : depth = some n)
    (hnew : new ≠ []) (hfull : n < q.length + new.length) : fits depth q new = false := by
  simp [fits, hdepth, hnew, hfull]

/-- The medium hands over the bit as it was sent if it is `Perfect`, and xor the draw if it is `LowNoise`
(60_exceptions.md R216, R217). -/
theorem deliverBit_eq {m : Medium} {b draw out : Bit} (hperfect : m = .perfect → out = b)
    (hnoise : m = .lowNoise → out = xor b draw) : deliverBit m b draw = out := by
  cases m with
  | perfect => exact (hperfect rfl).symm
  | lowNoise => rw [hnoise rfl]; exact congrFun₂ Bool.bne_eq_xor b draw

section
variable {s : State} {e : EndpointId} {b draw : Bit} {sent : Endpoint}

/-! ### `transmit` -/

theorem transmitFrom_of_unregistered (he : e ∉ s.registered) :
    transmitFrom e b draw sent s = s.setEp e { s.ep e with fault := some .unregisteredSender } := by
  simp only [transmitFrom, if_neg he, raiseFatal_eq]

theorem transmitFrom_of_no_peer (he : e ∈ s.registered) (hpeer : peer e ∉ s.registered) :
    transmitFrom e b draw sent s = s.setEp e sent := by
  simp only [transmitFrom, if_pos he, if_neg hpeer]

theorem transmitFrom_of_room (he : e ∈ s.registered) (hpeer : peer e ∈ s.registered)
    (hroom : ∀ n, s.cfg.phyqDepth = some n → (s.ep (peer e)).phyBitQueue.length < n) :
    transmitFrom e b draw sent s = (s.setEp e sent).setEp (peer e) { s.ep (peer e) with
      phyBitQueue := (s.ep (peer e)).phyBitQueue ++ [deliverBit s.cfg.medium b draw] } := by
  simp only [transmitFrom, if_pos he, if_pos hpeer, receiveBit, fits_singleton_iff.2 hroom, if_true]

theorem transmitFrom_of_full {n : Nat} (he : e ∈ s.registered) (hpeer : peer e ∈ s.registered)
    (hdepth : s.cfg.phyqDepth = some n) (hfull : n ≤ (s.ep (peer e)).phyBitQueue.length) :
    transmitFrom e b draw sent s = s.setEp (peer e) { s.ep (peer e) with fault := some .bufferOverflow } := by
  have hfits := fits_eq_false (new := [deliverBit s.cfg.medium b draw]) hdepth (List.cons_ne_nil _ _)
    (Nat.lt_succ_of_le hfull)
  simp only [transmitFrom, if_pos he, if_pos hpeer, receiveBit, hfits, Bool.false_eq_true, if_false, raiseFatal_eq]

theorem exec_transmit : exec (.transmit e b draw) s = .next (transmitFrom e b draw (s.ep e) s) := rfl

/-- `TX_BIT` of the closed system is `transmit` of the head of `txShift` (41_serdes.md R112). -/
theorem exec_txBit_of_closed {rest : List Bit} (hx : (s.ep e).enabledIn .tx) (hb : (s.ep e).txShift = b :: rest)
    (hclosed : s.cfg.wiring = .closed) :
    exec (.txBit e draw) s = .next (transmitFrom e b draw { s.ep e with txShift := rest } s) := by
  show execTxBit e draw s = _
  simp only [execTxBit, hb, if_pos hx, hclosed]

/-! ### Pushes beyond the depth -/

/-- A fatal error inside the enabling condition (60_exceptions.md R210). -/
theorem perform_enabled_raised {c : Endpoint → Prop} [DecidablePred c] {act : Endpoint → Act} {f : Fault} {k : ErrorKind}
    (h : c (s.ep e)) (hact : act (s.ep e) = .raised k) :
    perform e s (fun x => if c x then act x else .stuck f) = .next (s.setEp e { s.ep e with fault := some k }) :=
  perform_raised ((if_pos h).trans hact)

theorem exec_appPush_of_full {bs : List Byte} (h : fits s.cfg.sendbufDepth (s.ep e).sendBuffer bs = false) :
    exec (.appPush e bs) s = .next (s.setEp e { s.ep e with fault := some .bufferOverflow }) :=
  show execAppPush e bs s = _ from perform_raised (if_neg (by simp [h]))

theorem exec_phyRx_of_full (h : fits s.cfg.phyqDepth (s.ep e).phyBitQueue [b] = false) :
    exec (.phyRx e b) s = .next (s.setEp e { s.ep e with fault := some .bufferOverflow }) :=
  show execPhyRx e b s = _ from perform_raised (if_neg (by simp [h]))

/-- `DRAIN` overflows where the waiting bits or the assembled bytes do not fit (log 18). -/
theorem exec_drain_of_full (hx : (s.ep e).enabledIn .drain)
    (h : ¬ (fits s.cfg.bitbufDepth (s.ep e).bitBuffer (s.ep e).phyBitQueue = true ∧
      fits s.cfg.rxbufDepth (s.ep e).receiveBuffer
        (regroup ((s.ep e).bitBuffer ++ (s.ep e).phyBitQueue)).1 = true)) :
    exec (.drain e) s = .next (s.setEp e { s.ep e with fault := some .bufferOverflow }) :=
  show execDrain e s = _ from perform_enabled_raised hx (if_neg h)

/-- The assembled bytes do not fit where there is no room for every whole byte of the waiting bits. -/
theorem fits_regroup_eq_false {n : Nat} {depth : Option Nat} {q : List Byte} {l : List Bit} (hdepth : depth = some n)
    (hlong : 8 ≤ l.length) (hfull : n < q.length + l.length / 8) : fits depth q (regroup l).1 = false := by
  obtain ⟨-, -, hcount, -⟩ := regroup_spec l
  have hne : (regroup l).1 ≠ [] := List.ne_nil_of_length_pos (by omega)
  exact fits_eq_false hdepth hne (by omega)

theorem deliverSequence_of_full {cfg : Params} {data : List Byte} {x : Endpoint}
    (hfull : fits cfg.appbufDepth x.appBuffer data = false) :
    deliverSequence cfg (zext8 x.seqRecv :: data) x = .raised .bufferOverflow := by
  simp [deliverSequence, hfull]

/-- A delivery that does not fit overflows, run by itself and at the end of the ACK. -/
theorem exec_delivery_of_full {data : List Byte} (hx : (s.ep e).hasSent .cAck)
    (hrx : (s.ep e).rxFrame = zext8 (s.ep e).seqRecv :: data)
    (hfull : fits s.cfg.appbufDepth (s.ep e).appBuffer data = false) :
    exec (.deliverHalf e (zext8 (s.ep e).seqRecv :: data)) s =
        .next (s.setEp e { s.ep e with fault := some .bufferOverflow }) ∧
      exec (.txDone e) s = .next (s.setEp e { s.ep e with fault := some .bufferOverflow }) := by
  have ⟨hphase, hshift, hcont⟩ := hx
  refine ⟨show execDeliverHalf e _ s = _ from
      perform_enabled_raised (c := fun x => x.canDeliver _) ⟨hx, hrx.symm⟩ (deliverSequence_of_full hfull),
    show execTxDone e s = _ from perform_enabled_raised ⟨hphase, hshift⟩ ?_⟩
  have hraised : deliverSequence s.cfg (s.ep e).rxFrame ((s.ep e).logs [.frameSent .ack (s.ep e).txFrame]) =
      .raised .bufferOverflow := by
    rw [hrx]
    exact deliverSequence_of_full (x := (s.ep e).logs _) hfull
  simp only [hcont, finishAck, hraised]

end

/-! ### The statements -/

/-- Settles O14: the case of `transmit` with room at the peer, for each medium. -/
theorem txBitDeliversOneBitToThePeer : Obligations.TxBitDeliversOneBitToThePeer := by
  intro s e b rest draw hphase hfault hb hclosed hreg hroom
  have h := exec_txBit_of_closed (draw := draw) ⟨hphase, hfault⟩ hb hclosed
  rw [transmitFrom_of_room (hreg e) (hreg (peer e)) hroom] at h
  exact ⟨fun hm => by rw [h, hm]; rfl, fun hm => by rw [h, hm]; rfl⟩

/-- Settles O16: `transmit` of an unregistered sender, inside `TX_BIT` and by itself. -/
theorem unregisteredSenderIsFatal : Obligations.UnregisteredSenderIsFatal := by
  intro s e draw he
  refine ⟨fun hphase hfault hb hclosed => ?_, fun b => ?_⟩
  · obtain ⟨b, rest, hb⟩ := List.exists_cons_of_ne_nil hb
    rw [exec_txBit_of_closed ⟨hphase, hfault⟩ hb hclosed, transmitFrom_of_unregistered he]
  · rw [exec_transmit, transmitFrom_of_unregistered he]

/-- Settles O26: one equation per queue, for the two pushes of `DRAIN` and the two routes of the delivery. -/
theorem fullQueueRaisesBufferOverflow : Obligations.FullQueueRaisesBufferOverflow := by
  intro s e n
  refine ⟨fun bs hne hdepth hfull => ?_, fun b hdepth hfull => ?_, fun hphase hfault hne hdepth hfull => ?_,
    fun hphase hfault hlong hdepth hfull => ?_, fun data hne hphase hfault hshift hcont hrx hdepth hfull => ?_,
    fun draw hphase hfault hb hclosed hreg hdepth hfull => ?_⟩
  · exact exec_appPush_of_full (fits_eq_false hdepth hne hfull)
  · exact exec_phyRx_of_full (fits_eq_false hdepth (List.cons_ne_nil _ _) (Nat.lt_succ_of_le hfull))
  · exact exec_drain_of_full ⟨hphase, hfault⟩ fun ⟨hbits, _⟩ => by simp [fits_eq_false hdepth hne hfull] at hbits
  · rw [← List.length_append] at hlong hfull
    exact exec_drain_of_full ⟨hphase, hfault⟩ fun ⟨_, hbytes⟩ => by
      simp [fits_regroup_eq_false hdepth hlong hfull] at hbytes
  · exact exec_delivery_of_full ⟨⟨hphase, hfault⟩, hshift, hcont⟩ hrx (fits_eq_false hdepth hne hfull)
  · obtain ⟨b, rest, hb⟩ := List.exists_cons_of_ne_nil hb
    rw [exec_txBit_of_closed ⟨hphase, hfault⟩ hb hclosed,
      transmitFrom_of_full (hreg e) (hreg (peer e)) hdepth hfull]

/-- Settles O34: one case of `transmit` after the other. -/
theorem transmitDeliversToThePeer : Obligations.TransmitDeliversToThePeer := by
  intro s e b draw
  rw [exec_transmit]
  refine ⟨fun he => ?_, fun out he hpeer hperfect hnoise => ⟨fun hroom => ?_, fun n hdepth hfull => ?_⟩,
    fun he hpeer => ?_⟩
  · rw [transmitFrom_of_unregistered he]
  · rw [transmitFrom_of_room he hpeer hroom, deliverBit_eq hperfect hnoise, setEp_ep]
  · rw [transmitFrom_of_full he hpeer hdepth hfull]
  · rw [transmitFrom_of_no_peer he hpeer, setEp_ep]

end Sys2Proof.Machine
end

/-! ## Who an operation can reach

`Reach` says, of every operation, which endpoint's record it touches and where a bit can come from; `exec_reach` ties it
to the model. The statement about the wire is read off it. -/

section

namespace Sys2Proof.Machine

/-! ### What leaves the bit queue alone -/

section
variable (x : Endpoint)

@[simp] theorem observeAck_phyBitQueue : (observeAck x).phyBitQueue = x.phyBitQueue := rfl
@[simp] theorem armSender_phyBitQueue (now f) : (armSender now f x).phyBitQueue = x.phyBitQueue := rfl
@[simp] theorem clearTx_phyBitQueue (p) : (clearTx p x).phyBitQueue = x.phyBitQueue := rfl
@[simp] theorem logs_phyBitQueue (evs) : (x.logs evs).phyBitQueue = x.phyBitQueue := rfl

@[simp] theorem dispatch_phyBitQueue (f : List Byte) : (dispatch f x).phyBitQueue = x.phyBitQueue := by
  rcases dispatch_cases f x with ⟨-, h⟩ | ⟨-, h⟩ <;> simp [h]

@[simp] theorem handleParsed_phyBitQueue (p : Parsed) : (handleParsed p x).phyBitQueue = x.phyBitQueue := by
  rcases handleParsed_cases p x with ⟨-, h⟩ | ⟨f, -, h⟩ <;> simp [h]

@[simp] theorem continueScan_phyBitQueue : (continueScan x).phyBitQueue = x.phyBitQueue := by
  rcases continueScan_cases x with ⟨-, h⟩ | ⟨-, -, h⟩ | ⟨-, -, h⟩ <;> simp [h]

@[simp] theorem restartScan_phyBitQueue : (restartScan x).phyBitQueue = x.phyBitQueue := by simp [restartScan_eq]

@[simp] theorem takeContent_phyBitQueue (n : Nat) (b : Byte) : (takeContent n b x).phyBitQueue = x.phyBitQueue := by
  simp [takeContent_eq]

end

theorem deliverSequence_phyBitQueue {cfg : Params} {f : List Byte} {x y : Endpoint}
    (h : deliverSequence cfg f x = .done y) : y.phyBitQueue = x.phyBitQueue := by
  rcases deliverSequence_done h with ⟨data, -, -, rfl⟩ | ⟨r, data, -, -, rfl⟩ <;> rfl

theorem finishAck_phyBitQueue {cfg : Params} {x y : Endpoint} (h : finishAck cfg x = .done y) :
    y.phyBitQueue = x.phyBitQueue := by
  obtain ⟨z, hz, rfl⟩ := finishAck_done h
  simpa using deliverSequence_phyBitQueue hz

/-! ### Which records an operation touches -/

/-- No bit has joined the queue: it is as it was, or empty. -/
def Endpoint.TakesNoBit (x y : Endpoint) : Prop := y.phyBitQueue = x.phyBitQueue ∨ y.phyBitQueue = []

/-- What the wire can make of the record at its other end (60_exceptions.md R222): nothing, one more bit, or an overflow. -/
def Endpoint.OverTheWire (x y : Endpoint) : Prop :=
  y = x ∨ (∃ b, y = { x with phyBitQueue := x.phyBitQueue ++ [b] }) ∨ y = { x with fault := some .bufferOverflow }

/-- Which records an operation touches between the states `s` and `t`, and where a bit can come from. -/
inductive Reach (s t : State) : Instr → Prop
  | nobody {i : Instr} (hi : actor i = none) (hep : ∀ e, t.ep e = s.ep e) : Reach s t i
  | itself {i : Instr} {e : EndpointId} (hi : actor i = some e) (hpeer : t.ep (peer e) = s.ep (peer e))
      (hq : (s.ep e).TakesNoBit (t.ep e)) : Reach s t i
  | fromPort {e : EndpointId} {b : Bit} (hpeer : t.ep (peer e) = s.ep (peer e)) : Reach s t (.phyRx e b)
  | txBit {e : EndpointId} {draw : Bit} (htx : (s.ep e).phase = .tx)
      (hpeer : (s.ep (peer e)).OverTheWire (t.ep (peer e))) (hq : (s.ep e).TakesNoBit (t.ep e)) :
      Reach s t (.txBit e draw)
  | transmit {e : EndpointId} {b draw : Bit} (hpeer : (s.ep (peer e)).OverTheWire (t.ep (peer e))) :
      Reach s t (.transmit e b draw)

section
variable {i : Instr} {s t : State} {e : EndpointId}

theorem Reach.returning {r : Result} (h : returning r s = .next t) (hi : actor i = none) : Reach s t i := by
  obtain rfl := returning_next.1 h
  exact .nobody hi fun e => ep_with_result s r e

/-- An operation that replaces its endpoint's record, and may return a value. -/
theorem Reach.setEp {x : Endpoint} (hi : actor i = some e) (hep : ∀ f, t.ep f = (s.setEp e x).ep f)
    (hq : (s.ep e).TakesNoBit x) : Reach s t i :=
  .itself hi (by rw [hep, ep_peer_setEp]) (by rw [hep, ep_setEp]; exact hq)

theorem Reach.perform {act : Endpoint → Act} (h : perform e s act = .next t) (hi : actor i = some e)
    (hq : ∀ x, act (s.ep e) = .done x → (s.ep e).TakesNoBit x) : Reach s t i := by
  rcases perform_next h with ⟨x, hx, rfl⟩ | ⟨k, -, rfl⟩
  · exact .setEp hi (fun _ => rfl) (hq x hx)
  · exact .setEp hi (fun _ => rfl) (.inl rfl)

/-- An operation that only completes, under one condition, and leaves the bit queue alone. -/
theorem Reach.guarded {c : Endpoint → Prop} [DecidablePred c] {g : Endpoint → Endpoint} {f : Fault}
    (h : Machine.perform e s (fun x => if c x then .done (g x) else .stuck f) = .next t) (hi : actor i = some e)
    (hq : (g (s.ep e)).phyBitQueue = (s.ep e).phyBitQueue) : Reach s t i := by
  refine .perform h hi fun x hx => ?_
  split at hx <;> cases hx
  exact .inl hq

theorem Reach.consumeFrame {f : List Byte} {res : ParseResult} {evs : List Event}
    (h : Machine.perform e s (consumeFrame f res evs) = .next t) (hi : actor i = some e) : Reach s t i :=
  .guarded h hi (handleParsed_phyBitQueue _ _)

theorem Reach.takeAck (h : Machine.perform e s takeAck = .next t) (hi : actor i = some e) : Reach s t i :=
  .guarded h hi (observeAck_phyBitQueue _)

theorem Reach.takeData {f : List Byte} (h : Machine.perform e s (takeData f) = .next t) (hi : actor i = some e) :
    Reach s t i := by
  refine .perform h hi fun x hx => ?_
  rcases takeData_cases f (s.ep e) with ⟨-, -, hd⟩ | ⟨-, -, hd⟩ | ⟨-, hd⟩ <;> rw [hd] at hx <;> cases hx
  exact .inl (acknowledge_phyBitQueue _ _)

/-! ### The operations with cases of their own -/

theorem reach_sendNext (h : execSendNext e s = .next t) : Reach s t (.sendNext e) := by
  refine .perform h rfl fun x hx => ?_
  split at hx
  · split at hx <;> cases hx <;> exact .inl rfl
  · cases hx

theorem reach_txDone (h : execTxDone e s = .next t) : Reach s t (.txDone e) := by
  refine .perform h rfl fun x hx => ?_
  split at hx
  · split at hx
    · cases hx; exact .inl rfl
    · exact .inl (finishAck_phyBitQueue hx)
    · split at hx <;> cases hx; exact .inl rfl
    · cases hx
  · cases hx

/-- `DRAIN` takes all the bits of the queue (41_serdes.md R114). -/
theorem reach_drain (h : execDrain e s = .next t) : Reach s t (.drain e) := by
  refine .perform h rfl fun x hx => ?_
  split at hx
  · dsimp only at hx; split at hx <;> cases hx; exact .inr rfl
  · cases hx

theorem reach_process (h : execProcess e s = .next t) : Reach s t (.process e) := by
  refine .perform h rfl fun x hx => ?_
  split at hx
  · split at hx <;> cases hx
    · exact .inl rfl
    · exact .inl (handleParsed_phyBitQueue _ _)
  · cases hx

theorem reach_chkTimeout (h : execChkTimeout e s = .next t) : Reach s t (.chkTimeout e) := by
  refine .perform h rfl fun x hx => ?_
  split at hx
  · split at hx
    · cases hx; exact .inl rfl
    · split at hx
      · cases hx
      · split at hx
        · split at hx <;> cases hx; exact .inl rfl
        · cases hx; exact .inl rfl
  · cases hx

theorem reach_appPush {bs : List Byte} (h : execAppPush e bs s = .next t) : Reach s t (.appPush e bs) := by
  refine .perform h rfl fun x hx => ?_
  split at hx <;> cases hx
  exact .inl rfl

theorem reach_deliverHalf {f : List Byte} (h : execDeliverHalf e f s = .next t) : Reach s t (.deliverHalf e f) := by
  refine .perform h rfl fun x hx => ?_
  split at hx
  · exact .inl (deliverSequence_phyBitQueue hx)
  · cases hx

theorem reach_finishFrameReceive {f : List Byte} (h : execFinishFrameReceive e f s = .next t) :
    Reach s t (.finishFrameReceive e f) := by
  unfold execFinishFrameReceive at h
  by_cases hf : f = [Config.ackTag]
  · simp only [if_pos hf] at h; exact .takeAck h rfl
  · simp only [if_neg hf] at h; exact .takeData h rfl

theorem reach_phyRx {b : Bit} (h : execPhyRx e b s = .next t) : Reach s t (.phyRx e b) := by
  rcases perform_next h with ⟨x, -, rfl⟩ | ⟨k, -, rfl⟩ <;> exact .fromPort (ep_peer_setEp _ _ _)

theorem reach_assemble {l : List Bit} (h : execAssemble l s = .next t) : Reach s t (.assemble l) := by
  unfold execAssemble at h
  split at h
  · exact .returning h rfl
  · cases h

/-! ### The medium -/

/-- A transmission reaches the peer over the wire alone. -/
theorem transmitFrom_overTheWire (b draw : Bit) (sent : Endpoint) :
    (s.ep (peer e)).OverTheWire ((transmitFrom e b draw sent s).ep (peer e)) := by
  rcases transmitFrom_cases e b draw sent s with ⟨-, -, h⟩ | ⟨-, -, h⟩ | ⟨-, -, h⟩ | ⟨-, h⟩ <;> rw [h]
  · exact .inr (.inl ⟨_, ep_setEp _ _ _⟩)
  · exact .inr (.inr (ep_setEp _ _ _))
  · exact .inl (ep_peer_setEp _ _ _)
  · exact .inl (ep_peer_setEp _ _ _)

/-- A sender's own queue is not touched by its transmission: the medium delivers to the others (60_exceptions.md R215). -/
theorem transmitFrom_phyBitQueue {b draw : Bit} {sent : Endpoint} (hsent : sent.phyBitQueue = (s.ep e).phyBitQueue) :
    ((transmitFrom e b draw sent s).ep e).phyBitQueue = (s.ep e).phyBitQueue := by
  rcases transmitFrom_cases e b draw sent s with ⟨-, -, h⟩ | ⟨-, -, h⟩ | ⟨-, -, h⟩ | ⟨-, h⟩ <;> simp [h, hsent]

theorem reach_txBit {draw : Bit} (h : execTxBit e draw s = .next t) : Reach s t (.txBit e draw) := by
  unfold execTxBit at h
  split at h
  · cases h
  · next b rest hb =>
    split at h
    · next hx =>
      split at h <;> cases h
      · exact .txBit hx.1 (.inl (ep_peer_setEp _ _ _)) (.inl (by rw [ep_setEp]))
      · exact .txBit hx.1 (transmitFrom_overTheWire _ _ _) (.inl (transmitFrom_phyBitQueue rfl))
    · cases h

end

/-- Every operation that completes reaches its own endpoint alone, but for the two that put a bit on the medium. -/
theorem exec_reach {i : Instr} {s t : State} (h : exec i s = .next t) : Reach s t i := by
  cases i with
  | startHunt e => exact .guarded (show execStartHunt e s = _ from h) rfl (restartScan_phyBitQueue _)
  | garbageHunt e b => exact .guarded (show execGarbageHunt e b s = _ from h) rfl (continueScan_phyBitQueue _)
  | start e => exact .guarded (show execStart e s = _ from h) rfl (restartScan_phyBitQueue _)
  | stop e => exact .guarded (show execStop e s = _ from h) rfl (handleParsed_phyBitQueue _ _)
  | esc e => exact .guarded (show execEsc e s = _ from h) rfl (continueScan_phyBitQueue _)
  | literal e b => exact .guarded (show execLiteral e b s = _ from h) rfl (takeContent_phyBitQueue _ _ _)
  | literalEscaped e b => exact .guarded (show execLiteralEscaped e b s = _ from h) rfl (takeContent_phyBitQueue _ _ _)
  | escPair e b => exact .guarded (show execEscPair e b s = _ from h) rfl (takeContent_phyBitQueue _ _ _)
  | ackTagByte | ackBranch => exact .takeAck h rfl
  | ackFrameCode | dataFrame | emptyFrame | oneByteFrame => exact .consumeFrame h rfl
  | dataBranch => exact .takeData h rfl
  | chkStop e => exact .guarded (show execChkStop e s = _ from h) rfl rfl
  | loadTx e f c => exact .guarded (show execLoadTx e f c s = _ from h) rfl (loadEncoder_phyBitQueue _ _ _)
  | finishFrameSend e f =>
    exact .guarded (show execFinishFrameSend e f s = _ from h) rfl (armSender_phyBitQueue _ _ _)
  | sendNext => exact reach_sendNext h
  | txBit => exact reach_txBit h
  | txDone => exact reach_txDone h
  | drain => exact reach_drain h
  | process => exact reach_process h
  | chkTimeout => exact reach_chkTimeout h
  | appPush => exact reach_appPush h
  | phyRx => exact reach_phyRx h
  | finishFrameReceive => exact reach_finishFrameReceive h
  | deliverHalf => exact reach_deliverHalf h
  | stopReq => cases h; exact .setEp rfl (fun _ => rfl) (.inl rfl)
  | reset => cases h; exact .setEp rfl (fun _ => rfl) (.inr rfl)
  | appRetrieve | processFrame =>
    obtain rfl := returning_next.1 h
    exact .setEp rfl (ep_with_result _ _) (.inl rfl)
  | transmit => cases h; exact .transmit (transmitFrom_overTheWire _ _ _)
  | timeAdv => cases h; exact .nobody rfl (ep_with_now _ _)
  | assemble => exact reach_assemble h
  | seqByte | parityByte | stuff7B | stuff7D | stuff5C | serialize => exact .returning h rfl
  | parity | stuff | stuffAll | createFrame | ackFrame => exact .returning h rfl
  | deliverPerfect | deliverLowNoise => exact .returning h rfl

/-! ### A step runs free operations only -/

theorem isFreeStep_of_admitLine {i j : Instr} {s u : State} (h : admitLine i s = .run j u) :
    isFreeStep s.cfg j = true := by
  rcases admitLine_cases i s with ⟨-, hfree, ha⟩ | ⟨-, ha⟩ | ⟨-, -, ha⟩ <;> rw [ha] at h <;> cases h
  exact hfree

theorem isFreeStep_of_fetchLine {l : Line} {i : Instr} {s u : State} (h : fetchLine l s = .run i u) :
    isFreeStep s.cfg i = true := by
  unfold fetchLine at h
  split at h
  · exact isFreeStep_of_admitLine h
  · split at h
    · exact isFreeStep_of_admitLine h
    · cases h

/-- An event loop calls neither `PHY_RX` nor a bare `transmit` (40_event_loop.md R90). -/
theorem isFreeStep_of_loopOperation (cfg : Params) {e : EndpointId} {draw : Bit} {x : Endpoint} {i : Instr}
    (h : loopOperation e draw x = some i) : isFreeStep cfg i = true := by
  unfold loopOperation at h
  split at h
  · split at h
    case h_3 => split at h <;> cases h <;> rfl
    case h_7 => cases h
    all_goals cases h; rfl
  · cases h

theorem isFreeStep_of_fetch {i : Instr} {s u : State} (h : fetch s = .run i u) : isFreeStep s.cfg i = true := by
  unfold fetch at h
  split at h
  · next rest _ => exact isFreeStep_of_fetchLine (s := { s with script := rest }) h
  · split at h
    · next hi =>
      cases h
      obtain ⟨e, draw, -, hl⟩ := unscripted_eq_some hi
      exact isFreeStep_of_loopOperation _ hl
    · cases h

/-- What a step that goes on is: a free operation, run where the fetch has touched the schedule alone. -/
theorem step_exec {s t : State} (h : step s = .next t) :
    ∃ i script tick, isFreeStep s.cfg i = true ∧ exec i { s with script := script, tick := tick } = .next t := by
  unfold step at h
  split at h
  · next i u hf =>
    obtain ⟨-, ⟨script, tick, rfl, -⟩, -⟩ := fetch_run hf
    exact ⟨i, script, tick, isFreeStep_of_fetch hf, h⟩
  · cases h
  · cases h

/-! ### The statement -/

section
variable {i : Instr} {s t : State} {e : EndpointId}

/-- An operation that puts nothing on the medium leaves the other endpoint's record alone. -/
theorem Reach.peer_eq (r : Reach s t i) (hi : actor i = some e) (hmedium : usesMedium i = false) :
    t.ep (peer e) = s.ep (peer e) := by
  cases r with
  | nobody hi' => simp [hi] at hi'
  | itself hi' hpeer => cases hi.symm.trans hi'; exact hpeer
  | fromPort hpeer => cases hi; exact hpeer
  | txBit | transmit => cases hmedium

/-- An operation that uses the medium reaches the other endpoint over the wire. -/
theorem Reach.peer_overTheWire (r : Reach s t i) (hi : actor i = some e) :
    (s.ep (peer e)).OverTheWire (t.ep (peer e)) := by
  cases r with
  | nobody hi' => simp [hi] at hi'
  | itself hi' hpeer => cases hi.symm.trans hi'; exact .inl hpeer
  | fromPort hpeer => cases hi; exact .inl hpeer
  | txBit _ hpeer => cases hi; exact hpeer
  | transmit hpeer => cases hi; exact hpeer

/-- The clock and the pure functions touch no endpoint. -/
theorem Reach.ep_eq (r : Reach s t i) (hi : actor i = none) (e : EndpointId) : t.ep e = s.ep e := by
  cases r with
  | nobody _ hep => exact hep e
  | itself hi' => simp [hi] at hi'
  | fromPort | txBit | transmit => cases hi

/-- In the closed system the one source of a bit is the peer's `TX_BIT`, and that needs the peer in `P_TX`
(20_memory.md R57). -/
theorem Reach.takesNoBit (r : Reach s t i) (hclosed : s.cfg.wiring = .closed) (hfree : isFreeStep s.cfg i = true)
    (hpeer : (s.ep (peer e)).phase ≠ .tx) : (s.ep e).TakesNoBit (t.ep e) := by
  cases r with
  | nobody _ hep => exact .inl (by rw [hep])
  | @itself _ e' _ hother hq =>
    rcases eq_or_eq_peer e' e with rfl | rfl
    · exact hq
    · exact .inl (by rw [hother])
  | @txBit e' _ htx _ hq =>
    rcases eq_or_eq_peer e' e with rfl | rfl
    · exact hq
    · exact absurd htx (by rwa [peer_peer] at hpeer)
  | fromPort | transmit => simp [isFreeStep, hclosed] at hfree

end

/-- Settles O54: what each operation reaches, and that a step of the closed system is free of `PHY_RX` and `transmit`. -/
theorem onlyTheWireReachesThePeer : Obligations.OnlyTheWireReachesThePeer := by
  refine ⟨fun i s t h => ?_, fun s t e hclosed h hpeer => ?_⟩
  · have r := exec_reach h
    exact ⟨fun e hi hmedium => r.peer_eq hi hmedium, fun e hi _ => r.peer_overTheWire hi, r.ep_eq⟩
  · obtain ⟨i, script, tick, hfree, hexec⟩ := step_exec h
    have hep (f : EndpointId) : ({ s with script := script, tick := tick } : State).ep f = s.ep f := by cases f <;> rfl
    rw [← hep] at hpeer ⊢
    exact (exec_reach hexec).takesNoBit hclosed hfree hpeer

end Sys2Proof.Machine
end

/-! ## `RESET`: one endpoint becomes the reset column of 10_state.md R10 -/

section

namespace Sys2Proof.Machine

/-- `RESET` completes in every state, a faulted one included, and replaces one record (70_reset_and_hazards.md R240). -/
theorem exec_reset (s : State) (e : EndpointId) : exec (.reset e) s = .next (s.setEp e Endpoint.reset) := rfl

/-- Settles O6: the record written is the reset column, and replacing one record leaves the rest of the state alone. -/
theorem resetGivesTheResetColumn : Obligations.ResetGivesTheResetColumn := by
  intro s e
  refine ⟨s.setEp e Endpoint.reset, exec_reset s e, by rw [ep_setEp], ?_⟩
  simp only [ep_setEp, Endpoint.reset, ep_peer_setEp, setEp_now, setEp_registered, and_self]

end Sys2Proof.Machine
end
